-- ==== Sys2Proof/Word.lean ====
section
/-! DEFINITION. The words of the BitProtocolEncoder: the widths that spec/00_scope.md R7 and
spec/30_encoding.md R76, R79 fix. All values are unsigned and bit 0 is the least significant (R10). -/

namespace Sys2Proof

/-- A logical level 0 or 1 on a control line (R11, decision D5). -/
abbrev Level := Bool

/-- A 6-bit wire command (R71). -/
abbrev Command := BitVec 6

/-- A 16-bit data frame on the wire (R55). -/
abbrev Frame := BitVec 16

/-- The 14-bit payload of a data frame (R13, R55). -/
abbrev Payload := BitVec 14

/-- The 16-bit operand of a host request (R76). -/
abbrev Operand := BitVec 16

/-- A 19-bit host request word (R76). -/
abbrev RequestWord := BitVec 19

/-- A 16-bit host response word (R79). -/
abbrev ResponseWord := BitVec 16

/-- The 16-bit shadow address (R25, decision D9). -/
abbrev Addr := BitVec 16

end Sys2Proof
end

