-- ==== Sys2Proof/Syntax.lean ====
section
/-! DEFINITION. The eight host requests, one constructor per row of spec/opcode_table.json (R77), and the
lines of the assembly notation of R81 with the macros of R82. -/

namespace Sys2Proof

/-- A host request (R77). Only LOAD_PROGRAM and LOAD_CONFIG take an operand (R76); every 16-bit operand
is accepted (R57), and every request word is legal (R80). -/
inductive Instr where
  /-- op 0, R120 -/
  | enter
  /-- op 1, R140 -/
  | loadProgram (w : Operand)
  /-- op 2, R142 -/
  | incrementAddr
  /-- op 3, R160 -/
  | beginProgram
  /-- op 4, R162 -/
  | bulkErase
  /-- op 5, R141 -/
  | loadConfig (w : Operand)
  /-- op 6, R180 -/
  | readProgram
  /-- op 7, R125 -/
  | exit
deriving DecidableEq, Repr

/-- The word that begins an assembly line: the mnemonics of R77 and the macros of R82. -/
inductive AsmName where
  | enter
  | loadProgram
  | incrementAddr
  | beginProgram
  | bulkErase
  | loadConfig
  | readProgram
  | exit
  /-- `ERASE_ALL` -/
  | eraseAll
  /-- `PROGRAM_WORD w` -/
  | programWord
  /-- `PROGRAM_VERIFY w` -/
  | programVerify
  /-- `SEEK_CONFIG_WORD c` -/
  | seekConfigWord
deriving DecidableEq, Repr

/-- One line of assembly: a name and, for some names, one unsigned number (R81). -/
structure AsmLine where
  name    : AsmName
  operand : Option Nat
deriving DecidableEq, Repr

end Sys2Proof
end

