-- ==== Sys2Proof/Decode.lean ====
section
/-! DEFINITION. Decoding and encoding of host request words (spec/30_encoding.md R76 to R78, R81). -/

namespace Sys2Proof

/-- The `op` field of a request word, `q[18:16]` (R76). -/
def opField (q : RequestWord) : BitVec 3 := q.extractLsb' 16 3

/-- The `operand` field of a request word, `q[15:0]` (R76). -/
def operandField (q : RequestWord) : Operand := q.extractLsb' 0 16

/-- The request of a request word: "every 3-bit value of `op` selects one request" (R77). The operand
bits of a request that takes none are ignored (R78). -/
def decode (q : RequestWord) : Instr :=
  match (opField q).toFin with
  | 0 => .enter
  | 1 => .loadProgram (operandField q)
  | 2 => .incrementAddr
  | 3 => .beginProgram
  | 4 => .bulkErase
  | 5 => .loadConfig (operandField q)
  | 6 => .readProgram
  | 7 => .exit

/-- Why a number is no request word. -/
inductive DecodeError where
  /-- It has a bit above bit 18: a request is a 19-bit word (R76). -/
  | notARequestWord
deriving DecidableEq, Repr

/-- The request word a number stands for, if it is one (R76). -/
def requestWord (n : Nat) : Except DecodeError RequestWord :=
  if n < 2 ^ 19 then .ok (BitVec.ofNat 19 n) else .error .notARequestWord

/-- Decoding of any number: the request, or the refusal by name (R76, R77). -/
def decodeNumber (n : Nat) : Except DecodeError Instr :=
  match requestWord n with
  | .ok q    => .ok (decode q)
  | .error e => .error e

/-- The host op code of a request (R77). -/
def opcode : Instr → BitVec 3
  | .enter         => 0#3
  | .loadProgram _ => 1#3
  | .incrementAddr => 2#3
  | .beginProgram  => 3#3
  | .bulkErase     => 4#3
  | .loadConfig _  => 5#3
  | .readProgram   => 6#3
  | .exit          => 7#3

/-- The operand bits an assembler writes: "Assemblers write 0 there" where a request takes none (R78). -/
def operandBits : Instr → Operand
  | .enter         => 0#16
  | .loadProgram w => w
  | .incrementAddr => 0#16
  | .beginProgram  => 0#16
  | .bulkErase     => 0#16
  | .loadConfig w  => w
  | .readProgram   => 0#16
  | .exit          => 0#16

/-- The request word of a request, `q = op << 16 | operand` (R81). -/
def encode (i : Instr) : RequestWord :=
  ((opcode i).setWidth 19 <<< 16) ||| (operandBits i).setWidth 19

/-- The request word that the low `nbits` bits of a table word make (log 8): bit 0 of the table's
numbering is `q[0]`, and the bits above `nbits` are 0. -/
def tableWord (nbits w : Nat) : Option RequestWord :=
  match requestWord (w % 2 ^ nbits) with
  | .ok q    => some q
  | .error _ => none

/-- The request the decoder reads from a word of spec/opcode_table.json. -/
def decodeTableWord (nbits w : Nat) : Option Instr :=
  (tableWord nbits w).map decode

end Sys2Proof
end

