-- ==== Sys2Proof/Config.lean ====
section
/-! DEFINITION. The configuration record `P` of spec/00_scope.md R7, its well-formedness R8, and the
model's two free values: the configuration itself and the levels the environment answers. -/

namespace Sys2Proof

/-- `ENTRY_VARIANT` (R7). -/
inductive EntryVariant where
  | lowVoltage
  | highVoltage
deriving DecidableEq, Repr

/-- `RAISE_ORDER` (R7, R122). -/
inductive RaiseOrder where
  | voltageFirst
  | enableFirst
deriving DecidableEq, Repr

/-- `PROG_CYCLE_KIND` (R7, R161). -/
inductive ProgCycleKind where
  | oneShot
  | programVerify
deriving DecidableEq, Repr

/-- The configuration record `P`, one field per row of R7's table; delays in microseconds. -/
structure Params where
  /-- `BEGIN_PROGRAM_CMD` -/
  beginProgramCmd : Command
  /-- `ENTRY_VARIANT` -/
  entryVariant    : EntryVariant
  /-- `RAISE_ORDER` -/
  raiseOrder      : RaiseOrder
  /-- `PROG_CYCLE_KIND` -/
  progCycleKind   : ProgCycleKind
  /-- `T_SET_US` -/
  tSetUs          : Nat
  /-- `T_HOLD_US` -/
  tHoldUs         : Nat
  /-- `T_SETTLE_US` -/
  tSettleUs       : Nat
  /-- `T_RAISE1_US` -/
  tRaise1Us       : Nat
  /-- `T_RAISE2_US` -/
  tRaise2Us       : Nat
  /-- `T_CMD_DATA_US` -/
  tCmdDataUs      : Nat
  /-- `T_POST_US` -/
  tPostUs         : Nat
  /-- `T_PROG_US` -/
  tProgUs         : Nat
  /-- `T_ERASE_US` -/
  tEraseUs        : Nat
deriving DecidableEq, Repr

/-- The least settle delay of an entry variant (R8, decision D23). -/
def EntryVariant.minSettleUs : EntryVariant → Nat
  | .lowVoltage  => 100000
  | .highVoltage => 1000000

/-- The least program-pulse delay of a cycle kind (R8, decisions D21, D24). -/
def ProgCycleKind.minProgUs : ProgCycleKind → Nat
  | .oneShot       => 2500
  | .programVerify => 6000

/-- The least bulk-erase delay (R8, decisions D22, D24). -/
def minEraseUs : Nat := 6000

/-- A well-formed configuration (R8). The OPEN delays have no minimum. -/
def Params.wellFormed (p : Params) : Bool :=
  (p.beginProgramCmd == 0x08#6 || p.beginProgramCmd == 0x18#6)
    && decide (p.entryVariant.minSettleUs ≤ p.tSettleUs)
    && decide (p.progCycleKind.minProgUs ≤ p.tProgUs)
    && decide (minEraseUs ≤ p.tEraseUs)

/-- The record of spec/95_test_vectors.md section 3, "chosen for arithmetic and not a statement about
any device". No meaning reads it: it is for tests, and it shows that a configuration exists. -/
def Params.p0 : Params where
  beginProgramCmd := 0x08#6
  entryVariant    := .lowVoltage
  raiseOrder      := .voltageFirst
  progCycleKind   := .oneShot
  tSetUs          := 1
  tHoldUs         := 1
  tSettleUs       := 100000
  tRaise1Us       := 100
  tRaise2Us       := 100
  tCmdDataUs      := 1
  tPostUs         := 1
  tProgUs         := 2500
  tEraseUs        := 6000

/-- A configuration the model can be built with: the record and the proof that it meets R8. "A
configuration that is not well-formed is refused when the model is built" (R8, R204, U3). -/
structure Configuration where
  p  : Params := Params.p0
  wf : p.wellFormed = true := by decide
deriving DecidableEq, Repr, Inhabited

/-- Building the model: the record is refused unless it is well-formed (R8, decision D35). -/
def Configuration.build (p : Params) : Option Configuration :=
  if h : p.wellFormed = true then some ⟨p, h⟩ else none

/-- FREE VALUE (log 1). The block's configuration: R7 leaves it OPEN, so nothing is known of it but that
it is well-formed. `State.reset` carries it; no proof can evaluate it. -/
opaque Config.P : Configuration

/-- FREE VALUE (log 3). The level the environment answers to the `n`-th `ReadLine(DATA)` where the
state's list of answers has run out: "a free input with no law" (R181, U1). -/
opaque Config.freeLevel : Nat → Level

end Sys2Proof
end

