-- ==== Sys2Proof/Machine/State.lean ====
section
/-! DEFINITION. The state: R20's six fields of the block, and beside them what stands at its three ports
(the client's host port, the SignalTransport port, the status port). -/

namespace Sys2Proof.Machine

/-- `MODE` (R23). Its fourth value cannot arise: "A model may represent `MODE` as a three-valued type"
(R24, log 9). -/
inductive Mode where
  /-- 0: not in programming mode -/
  | off
  /-- 1: entry sequence complete, the target's cursor is in program memory -/
  | prog
  /-- 2: LOAD_CONFIG has run since the last entry -/
  | config
deriving DecidableEq, Repr

/-- The four control lines (R27, decision D5). -/
inductive Line where
  | clk
  | data
  | vpp
  | en
deriving DecidableEq, Repr

/-- A SignalTransport action (R11). `ReadLine` is called only for `DATA` (R211), so `read` names no
line; the level answered is the environment's and is no part of the action. -/
inductive Action where
  /-- `set(L, v)` -/
  | set (l : Line) (v : Level)
  /-- `read(DATA)` -/
  | read
  /-- `delay(n)`: at least `n` microseconds pass before the next action -/
  | delay (us : Nat)
deriving DecidableEq, Repr

/-- The block's state `S`, "exactly these six fields; nothing else persists from one request to the
next" (R20). It is also what the status port shows (R30). -/
structure Block where
  mode     : Mode
  addr     : Addr
  lineClk  : Level
  lineData : Level
  lineVpp  : Level
  lineEn   : Level
deriving DecidableEq, Repr

/-- The reset values of R20 and R220. -/
def Block.reset : Block where
  mode     := .off
  addr     := 0x0000#16
  lineClk  := false
  lineData := false
  lineVpp  := false
  lineEn   := false

/-- The exception causes (R200): there is exactly one. -/
inductive Cause where
  /-- `E_NOT_ENTERED` -/
  | notEntered
deriving DecidableEq, Repr

/-- A response as a model type: "one of `ok`, `okValue(v : 14 bits)` (READ_PROGRAM only) or
`err(E_NOT_ENTERED)`" (R79). -/
inductive Response where
  | ok
  | okValue (v : Payload)
  | err (c : Cause)
deriving DecidableEq, Repr

/-- What the client does next at the host port (R9, R30, R61, R221; log 2). -/
inductive HostEvent where
  /-- It issues a request and waits for its response. -/
  | request (q : RequestWord)
  /-- It reads the status port between requests (R30). -/
  | readStatus
  /-- It issues a request, and the status port is read while that request is in progress (R30). -/
  | requestPolled (q : RequestWord)
  /-- It resets the idle block (R220). -/
  | reset
  /-- It issues a request and resets the block once that request has performed `k` actions, before
  its response (R221). -/
  | requestCut (q : RequestWord) (k : Nat)
deriving DecidableEq, Repr

/-- The machine: the block's six fields, its fixed configuration, and the model's own carriers of what
stands at its ports (logs 1 to 5). -/
structure State where
  /-- the block's state `S` (R20) -/
  block       : Block
  /-- the configuration `P`; no step writes it (R34, log 1) -/
  params      : Configuration
  /-- the actions performed since the last reset, oldest first (R11, R12) -/
  trace       : List Action
  /-- the traces that resets ended, oldest first (R220, R221, log 4) -/
  pastTraces  : List (List Action)
  /-- the responses given on the host port, oldest first (R79, log 5) -/
  responses   : List Response
  /-- what the status port returned, oldest first (R30, log 5) -/
  statusReads : List Block
  /-- the client's coming acts (log 2) -/
  inputs      : List HostEvent
  /-- the levels the environment will answer next (R181, log 3) -/
  answers     : List Level
  /-- how many levels were answered so far; indexes the free values (log 3) -/
  draws       : Nat
deriving DecidableEq, Repr

/-- The machine right after reset (R220): the six fields at their reset values, an empty trace, nothing
asked of it yet. Its configuration is the free value `Config.P`. -/
def State.reset : State where
  block       := Block.reset
  params      := Config.P
  trace       := []
  pastTraces  := []
  responses   := []
  statusReads := []
  inputs      := []
  answers     := []
  draws       := 0

/-- Ways in which the machine stops with a fault: none. The block's one exception ends the request with
an error response and the machine goes on (R202, R206, log 10); the transport returns no error (R203).
Nothing raises a fault, which is safe: the model stops nowhere. -/
inductive Fault where
deriving DecidableEq, Repr

/-- Ways in which an instruction is left without a meaning. -/
inductive Refusal where
  /-- Raised by `exec` alone, for a request that has no meaning yet; no arm raises it. Safe. -/
  | notModelled (mnemonic : String)
deriving DecidableEq, Repr

end Sys2Proof.Machine
end

