-- ==== Sys2Proof/Machine/Flags.lean ====
section
/-! DEFINITION. "The block has no status flags, condition codes or predicates. The outcome of a request
is carried in its response" (spec/10_state.md R31). So this file computes no flag: it gives the outcome
as the host sees it, the response word of R79, and the codes of R23 and R200. -/

namespace Sys2Proof.Machine

/-- The 2-bit value of MODE (R23); 3 is the value of no mode (R24). -/
def Mode.code : Mode → BitVec 2
  | .off    => 0#2
  | .prog   => 1#2
  | .config => 2#2

/-- The code of an exception cause (R200). -/
def Cause.code : Cause → BitVec 2
  | .notEntered => 1#2

/-- `a[15:14]` of a response: 0 for OK, else the cause's code (R79). -/
def Response.status : Response → BitVec 2
  | .ok        => 0#2
  | .okValue _ => 0#2
  | .err c     => c.code

/-- `a[13:0]` of a response: the value read, and 0 in every other response (R79). -/
def Response.value : Response → Payload
  | .ok        => 0#14
  | .okValue v => v
  | .err _     => 0#14

/-- The response word `a = status ++ value` (R79, decision D4). -/
def Response.word (r : Response) : ResponseWord :=
  (r.status.setWidth 16 <<< 14) ||| r.value.setWidth 16

end Sys2Proof.Machine
end

