-- ==== Sys2Proof/Machine/Operands.lean ====
section
/-! DEFINITION. Bit order and data frames: spec/20_memory.md R54, R55, R57 and spec/30_encoding.md R73,
R74. The block's only computation is this masking and shifting (R6). -/

namespace Sys2Proof.Machine

/-- The bits of a field in wire order, "bit 0, then bit 1, ..., then bit `n-1`" (R10, R54). -/
def bitsLsbFirst {n : Nat} (v : BitVec n) : List Level :=
  (List.range n).map v.getLsbD

/-- The data frame sent for a 16-bit operand, `zext_16((w & 0x3FFF) << 1)` (R73). -/
def frameOf (w : Operand) : Frame := (w &&& 0x3FFF#16) <<< 1

/-- The payload of a received frame, `(raw >> 1) & 0x3FFF` (R74, decision D20). -/
def payloadOf (raw : Frame) : Payload := ((raw >>> 1) &&& 0x3FFF#16).setWidth 14

/-- `raw[i] <- b` (R104). -/
def setFrameBit (raw : Frame) (i : Nat) (b : Level) : Frame :=
  if b then raw ||| (1#16 <<< i) else raw &&& ~~~(1#16 <<< i)

end Sys2Proof.Machine
end

