-- ==== Sys2Proof/Machine/Ops.lean ====
section
/-! DEFINITION. The operations every request is made of: the pseudocode primitives of spec/00_scope.md
R11, the bit-cell and frame procedures of spec/40_serializer.md R100 to R104, and the taking of the one
exception of spec/60_exceptions.md R200 to R202. There is no return from an exception: "the block has no
handler, vector or return request" (R206). -/

namespace Sys2Proof.Machine

/-- What a request ends with. -/
abbrev Result := Host.Outcome State Fault Refusal

/-- The level last driven on a line (R27). -/
def Block.line (b : Block) : Line → Level
  | .clk  => b.lineClk
  | .data => b.lineData
  | .vpp  => b.lineVpp
  | .en   => b.lineEn

/-- `S.LINE_L <- v` (R11). -/
def Block.setLine (b : Block) : Line → Level → Block
  | .clk,  v => { b with lineClk := v }
  | .data, v => { b with lineData := v }
  | .vpp,  v => { b with lineVpp := v }
  | .en,   v => { b with lineEn := v }

/-- An action is appended to the trace (R11). -/
def record (a : Action) (s : State) : State := { s with trace := s.trace ++ [a] }

/-- `SetLine(L, v)` (R11). -/
def setLine (l : Line) (v : Level) (s : State) : State :=
  record (.set l v) { s with block := s.block.setLine l v }

/-- `Delay(n)` (R11). A delay of 0 is recorded too (decision D17). -/
def delay (n : Nat) (s : State) : State := record (.delay n) s

/-- The level the environment will answer to the `k`-th reading from here on: the next of its listed
answers, and where they have run out a free value (R181, log 3). -/
def upcomingLevel (s : State) (k : Nat) : Level :=
  match s.answers[k]? with
  | some b => b
  | none   => Config.freeLevel (s.draws + k)

/-- `b <- ReadLine(DATA)` (R11). The level read is not stored in `LINE_DATA` (R28). -/
def readLine (s : State) : Level × State :=
  (upcomingLevel s 0, record .read { s with answers := s.answers.tail, draws := s.draws + 1 })

/-- `S.MODE <- m` (R11). -/
def setMode (m : Mode) (s : State) : State := { s with block := { s.block with mode := m } }

/-- `S.ADDR <- a` (R11). -/
def setAddr (a : Addr) (s : State) : State := { s with block := { s.block with addr := a } }

/-- `respond(r)`: the request ends with exactly one response (R11, R79). -/
def respond (r : Response) (s : State) : Result :=
  .next { s with responses := s.responses ++ [r] }

/-- TAKING THE EXCEPTION `raise E_NOT_ENTERED()` (R202, R206): no action, no state field written, the
response `err(E_NOT_ENTERED)`; nothing is saved and control goes nowhere. -/
def raiseNotEntered (s : State) : Result := respond (.err .notEntered) s

/-- The check every command-carrying request makes before any action: `if S.MODE = OFF: raise
E_NOT_ENTERED()` (R201). -/
def whenEntered (body : State → Result) (s : State) : Result :=
  match s.block.mode with
  | .off    => raiseNotEntered s
  | .prog   => body s
  | .config => body s

/-- `BitOut(b)` (R100). -/
def bitOut (b : Level) (s : State) : State :=
  let s := setLine .clk true s
  let s := setLine .data b s
  let s := delay s.params.p.tSetUs s
  let s := setLine .clk false s
  delay s.params.p.tHoldUs s

/-- `BitIn()` (R101). -/
def bitIn (s : State) : Level × State :=
  let s := setLine .clk true s
  let r := readLine s
  let s := delay r.2.params.p.tSetUs r.2
  let s := setLine .clk false s
  (r.1, delay s.params.p.tHoldUs s)

/-- `BitOut` of each bit in turn: the loops of R102 and R103. -/
def sendBits : List Level → State → State
  | [],      s => s
  | b :: bs, s => sendBits bs (bitOut b s)

/-- `SendCommand(c)` (R102). -/
def sendCommand (c : Command) (s : State) : State := sendBits (bitsLsbFirst c) s

/-- `SendData(w)` (R103). -/
def sendData (w : Operand) (s : State) : State := sendBits (bitsLsbFirst (frameOf w)) s

/-- `raw[i] <- BitIn()` for `n` bits from bit `i` on: the loop of R104. -/
def receiveBits : Nat → Nat → Frame → State → Frame × State
  | 0,     _, raw, s => (raw, s)
  | n + 1, i, raw, s => receiveBits n (i + 1) (setFrameBit raw i (bitIn s).1) (bitIn s).2

/-- `ReceiveData()` (R104). -/
def receiveData (s : State) : Payload × State :=
  let s := setLine .data true s
  let s := delay s.params.p.tCmdDataUs s
  let r := receiveBits 16 0 0#16 s
  (payloadOf r.1, r.2)

/-- "drive all control lines low", in the order `CLK`, `DATA`, `VPP`, `EN` (R120, R125, decisions D10,
D13). -/
def lowerLines (s : State) : State :=
  let s := setLine .clk false s
  let s := setLine .data false s
  let s := setLine .vpp false s
  setLine .en false s

/-- A line is raised and its delay waited for (R120). -/
def raiseLine (l : Line) (us : Nat) (s : State) : State := delay us (setLine l true s)

end Sys2Proof.Machine
end

