-- ==== Sys2Proof/Machine/EntryExit.lean ====
section
/-! DEFINITION. ENTER and EXIT: spec/41_entry_exit.md R120, R122, R125. -/

namespace Sys2Proof.Machine

/-- The two raises of ENTER in the order `P.RAISE_ORDER` (R120, R122). -/
def raiseInOrder (s : State) : State :=
  match s.params.p.raiseOrder with
  | .voltageFirst =>
    raiseLine .en s.params.p.tRaise2Us (raiseLine .vpp s.params.p.tRaise1Us s)
  | .enableFirst =>
    raiseLine .vpp s.params.p.tRaise2Us (raiseLine .en s.params.p.tRaise1Us s)

/-- ENTER (R120): accepted in every mode. -/
def execEnter (s : State) : Result :=
  let s := lowerLines s
  let s := delay s.params.p.tSettleUs s
  let s := raiseInOrder s
  let s := setMode .prog s
  let s := setAddr 0x0000#16 s
  respond .ok s

/-- EXIT (R125): accepted in every mode; `ADDR` unchanged. -/
def execExit (s : State) : Result :=
  let s := lowerLines s
  let s := setMode .off s
  respond .ok s

end Sys2Proof.Machine
end

