-- ==== Sys2Proof/Machine/Wire.lean ====
section
/-! DEFINITION. The wire side of spec/30_encoding.md: the command codes of R71, the three transaction
formats of R70 with their lengths R75, and the actions of one bit cell (R100, R101). -/

namespace Sys2Proof.Machine

/-- The wire commands of R71. -/
inductive WireCommand where
  | loadProgram
  | incrementAddr
  | beginProgram
  | bulkErase
  | loadConfig
  | readProgram
deriving DecidableEq, Repr

/-- The 6-bit code of a command (R71); that of BEGIN_PROGRAM is the configuration's. -/
def WireCommand.code (p : Params) : WireCommand → Command
  | .loadProgram   => 0x02#6
  | .incrementAddr => 0x06#6
  | .beginProgram  => p.beginProgramCmd
  | .bulkErase     => 0x09#6
  | .loadConfig    => 0x00#6
  | .readProgram   => 0x04#6

/-- The formats of a wire transaction (R70). -/
inductive WireFormat where
  /-- `W_CMD`: the command alone -/
  | cmd
  /-- `W_CMD_DOUT`: the command, then a frame sent -/
  | cmdDataOut
  /-- `W_CMD_DIN`: the command, then a frame received -/
  | cmdDataIn
deriving DecidableEq, Repr

/-- Which format a command has (R71, R72). -/
def WireCommand.format : WireCommand → WireFormat
  | .loadProgram   => .cmdDataOut
  | .incrementAddr => .cmd
  | .beginProgram  => .cmd
  | .bulkErase     => .cmd
  | .loadConfig    => .cmdDataOut
  | .readProgram   => .cmdDataIn

/-- The length of a transaction in bit cells (R70, R75). -/
def WireFormat.cells : WireFormat → Nat
  | .cmd        => 6
  | .cmdDataOut => 22
  | .cmdDataIn  => 22

/-- The command a request sends: none for ENTER and EXIT (R77). -/
def wireCommand : Instr → Option WireCommand
  | .enter         => none
  | .loadProgram _ => some .loadProgram
  | .incrementAddr => some .incrementAddr
  | .beginProgram  => some .beginProgram
  | .bulkErase     => some .bulkErase
  | .loadConfig _  => some .loadConfig
  | .readProgram   => some .readProgram
  | .exit          => none

/-- How many bit cells a request has when it is carried out (R58, R75, R231). -/
def wireCells (i : Instr) : Nat :=
  match wireCommand i with
  | some c => c.format.cells
  | none   => 0

/-- The five actions that send a bit (R100), as a list to hold beside what the meanings do. -/
def cellOut (p : Params) (b : Level) : List Action :=
  [.set .clk true, .set .data b, .delay p.tSetUs, .set .clk false, .delay p.tHoldUs]

/-- The five actions that receive a bit (R101). -/
def cellIn (p : Params) : List Action :=
  [.set .clk true, .read, .delay p.tSetUs, .set .clk false, .delay p.tHoldUs]

end Sys2Proof.Machine
end

