-- ==== Sys2Proof/Machine/LoadIncrement.lean ====
section
/-! DEFINITION. LOAD_PROGRAM, LOAD_CONFIG and INCREMENT_ADDR: spec/42_load_increment.md R140 to R142. -/

namespace Sys2Proof.Machine

/-- The wire part the two loads share: command, gap, frame, closing delay (R140, R141). -/
def sendLoad (c : WireCommand) (w : Operand) (s : State) : State :=
  let s := sendCommand (c.code s.params.p) s
  let s := delay s.params.p.tCmdDataUs s
  let s := sendData w s
  delay s.params.p.tPostUs s

/-- LOAD_PROGRAM (R140). -/
def execLoadProgram (w : Operand) (s : State) : Result :=
  whenEntered (fun s => respond .ok (sendLoad .loadProgram w s)) s

/-- LOAD_CONFIG (R141). -/
def execLoadConfig (w : Operand) (s : State) : Result :=
  whenEntered (fun s =>
    let s := sendLoad .loadConfig w s
    let s := setMode .config s
    let s := setAddr 0x2000#16 s
    respond .ok s) s

/-- INCREMENT_ADDR (R142): `(S.ADDR + 1) mod 2^16`. -/
def execIncrementAddr (s : State) : Result :=
  whenEntered (fun s =>
    let s := sendCommand (WireCommand.incrementAddr.code s.params.p) s
    let s := delay s.params.p.tPostUs s
    let s := setAddr (s.block.addr + 1#16) s
    respond .ok s) s

end Sys2Proof.Machine
end

