-- ==== Sys2Proof/Machine/ProgramErase.lean ====
section
/-! DEFINITION. BEGIN_PROGRAM and BULK_ERASE: spec/43_program_erase.md R160 to R162. -/

namespace Sys2Proof.Machine

/-- BEGIN_PROGRAM (R160). -/
def execBeginProgram (s : State) : Result :=
  whenEntered (fun s =>
    let s := sendCommand (WireCommand.beginProgram.code s.params.p) s
    let s := delay s.params.p.tProgUs s
    respond .ok s) s

/-- BULK_ERASE (R162). -/
def execBulkErase (s : State) : Result :=
  whenEntered (fun s =>
    let s := sendCommand (WireCommand.bulkErase.code s.params.p) s
    let s := delay s.params.p.tEraseUs s
    respond .ok s) s

end Sys2Proof.Machine
end

