-- ==== Sys2Proof/Machine/ReadBack.lean ====
section
/-! DEFINITION. READ_PROGRAM: spec/44_readback.md R180. -/

namespace Sys2Proof.Machine

/-- READ_PROGRAM (R180): its value is fixed by the 16 levels the environment answers (R181). -/
def execReadProgram (s : State) : Result :=
  whenEntered (fun s =>
    let s := sendCommand (WireCommand.readProgram.code s.params.p) s
    let r := receiveData s
    let s := delay r.2.params.p.tPostUs r.2
    respond (.okValue r.1) s) s

end Sys2Proof.Machine
end

