-- ==== Sys2Proof/Machine/Dispatch.lean ====
section
/-! DEFINITION. One arm per request (spec/30_encoding.md R77). -/

namespace Sys2Proof.Machine

def exec (i : Instr) (s : State) : Host.Outcome State Fault Refusal :=
  match i with
  | .enter => Sys2Proof.Machine.execEnter s
  | .loadProgram w => Sys2Proof.Machine.execLoadProgram w s
  | .incrementAddr => Sys2Proof.Machine.execIncrementAddr s
  | .beginProgram => Sys2Proof.Machine.execBeginProgram s
  | .bulkErase => Sys2Proof.Machine.execBulkErase s
  | .loadConfig w => Sys2Proof.Machine.execLoadConfig w s
  | .readProgram => Sys2Proof.Machine.execReadProgram s
  | .exit => Sys2Proof.Machine.execExit s

end Sys2Proof.Machine
end

