-- ==== Sys2Proof/Machine/HostPort.lean ====
section
/-! DEFINITION. The client's side of the block: requests (spec/30_encoding.md R76), the status port
(spec/10_state.md R30) and reset, also in the middle of a request (spec/70_reset_and_hazards.md R220,
R221). Step.lean only calls what stands here. -/

namespace Sys2Proof.Machine

/-- A request word is performed: it is decoded and its request carried out to its response (R59). -/
def perform (q : RequestWord) (s : State) : Result := exec (decode q) s

/-- What the status port shows: `MODE`, `ADDR` and the four `LINE_*` fields (R30). -/
def statusPort (s : State) : Block := s.block

/-- The client reads the status port: no action, no effect on the block (R30). -/
def readStatus (s : State) : State :=
  { s with statusReads := s.statusReads ++ [statusPort s] }

/-- How many readings of `DATA` a list of actions holds. -/
def readCount : List Action → Nat
  | []                => 0
  | .read :: acts     => readCount acts + 1
  | .set _ _ :: acts  => readCount acts
  | .delay _ :: acts  => readCount acts

/-- Reset after the actions `done` of a request in progress: the block takes its reset state at once, a
new trace starts empty, `P` stays, no response is given. The environment has answered the readings among
`done` (R220, R221, log 4, log 7). With no actions done it is the reset of the idle block. -/
def resetAfter (done : List Action) (s : State) : State :=
  { s with
    block      := Block.reset
    trace      := []
    pastTraces := s.pastTraces ++ [s.trace ++ done]
    answers    := s.answers.drop (readCount done)
    draws      := s.draws + readCount done }

/-- The actions a request has appended to the trace between two states (R12). -/
def emitted (before after : State) : List Action := after.trace.drop before.trace.length

/-- A request is cut short by a reset: of what it would have done from `s` only its first `k` actions
happen (R221). -/
def cutByReset (k : Nat) (s : State) : Result → Result
  | .next t    => .next (resetAfter ((emitted s t).take k) s)
  | .fault r   => .fault r
  | .refused r => .refused r

/-- One act of the client is served. -/
def serve (e : HostEvent) (s : State) : Result :=
  match e with
  | .request q       => perform q s
  | .readStatus      => .next (readStatus s)
  | .requestPolled q => perform q (readStatus s)
  | .reset           => .next (resetAfter [] s)
  | .requestCut q k  => cutByReset k s (perform q s)

/-- The client's next act, taken from its list (R61, log 2). -/
def nextInput (s : State) : Option (HostEvent × State) :=
  match s.inputs with
  | []        => none
  | e :: rest => some (e, { s with inputs := rest })

/-- The state in which the client's next act is the request `q`. -/
def presentRequest (q : RequestWord) (s : State) : State :=
  { s with inputs := .request q :: s.inputs }

end Sys2Proof.Machine
end

