-- ==== Sys2Proof/Machine/Step.lean ====
section
/-! DEFINITION. One step: one act of the client, or idling (spec/20_memory.md R59, R61;
spec/60_exceptions.md R214; spec/70_reset_and_hazards.md R220). -/

namespace Sys2Proof.Machine

/-- One step. The block fetches nothing (R22): the client decides what runs next. With nothing asked of
it the block waits and nothing changes ("it is idle between requests", R214, log 16). -/
def step (s : State) : Host.Outcome State Fault Refusal :=
  match nextInput s with
  | none        => .next s
  | some (e, t) => serve e t

/-- The state in which the very next step performs the request that a table word stands for (log 13). A
number that is no request word presents nothing. -/
def State.withFetchWord (s : State) (nbits w : Nat) : State :=
  match tableWord nbits w with
  | some q => presentRequest q s
  | none   => s

end Sys2Proof.Machine
end

