-- ==== Sys2Proof/Machine/Client.lean ====
section
/-! DEFINITION. The request sequences of the client: the macros of spec/30_encoding.md R82 and the
session of R128, R143, R144, R163, R182 and R223. The block does not enforce any of them (decision D25); the
client is outside it (R6). They are lists of plain requests and "add no behaviour". -/

namespace Sys2Proof.Machine

/-- The 14 bits of an operand that reach the wire, `w & 0x3FFF` (R73, R182). -/
def payloadOfOperand (w : Operand) : Payload := w.setWidth 14

/-- `ERASE_ALL` (R82, R163). -/
def eraseAll : List Instr := [.loadProgram 0x3FFF#16, .bulkErase]

/-- `PROGRAM_WORD w` (R82). -/
def programWord (w : Operand) : List Instr := [.loadProgram w, .beginProgram]

/-- `PROGRAM_VERIFY w` (R82, R164). -/
def programVerify (w : Operand) : List Instr := [.loadProgram w, .beginProgram, .readProgram]

/-- `SEEK_CONFIG_WORD c` (R82): the cursor only; the word is written by what follows (C2). -/
def seekConfigWord (c : Operand) : List Instr := .loadConfig c :: List.replicate 7 .incrementAddr

/-- What the client issues for one image word: the erased sentinel, tested on the unmasked word (C4), is
skipped but still advances the cursor (R144). -/
def imageWord (verify : Bool) (w : Operand) : List Instr :=
  (if w = 0xFFFF#16 then [] else if verify then programVerify w else programWord w)
    ++ [.incrementAddr]

/-- The client's whole session when nothing fails (R223); `c` is what it passes to LOAD_CONFIG (OPEN,
decision D36). `verify` is the verification of program words, the only one that is optional (R144, C10);
the configuration word is always read back: R143 and R223 list its READ_PROGRAM with no condition. -/
def session (verify : Bool) (image : List Operand) (c word : Operand) : List Instr :=
  [.enter] ++ eraseAll ++ image.flatMap (imageWord verify) ++ seekConfigWord c
    ++ programVerify word ++ [.exit]

/-- The client's session states (R128). -/
inductive SessionState where
  | idle
  | entered
  | erased
  | writing
  | configWritten
  | exited
  | failed
deriving DecidableEq, Repr

/-- What `MODE` is in a session state; R128 does not say it of `Failed`. -/
def SessionState.mode : SessionState → Option Mode
  | .idle          => some .off
  | .entered       => some .prog
  | .erased        => some .prog
  | .writing       => some .prog
  | .configWritten => some .config
  | .exited        => some .off
  | .failed        => none

/-- What the client has issued once it is in a session state, `image` being what it has written so far
(R223), the configuration word read back whatever `verify` is (R143, C10). For `Failed` see
`failedSession`. -/
def issuedIn (verify : Bool) (image : List Operand) (c word : Operand) :
    SessionState → Option (List Instr)
  | .idle          => some []
  | .entered       => some [.enter]
  | .erased        => some ([.enter] ++ eraseAll)
  | .writing       => some ([.enter] ++ eraseAll ++ image.flatMap (imageWord verify))
  | .configWritten =>
    some ([.enter] ++ eraseAll ++ image.flatMap (imageWord verify) ++ seekConfigWord c
      ++ programVerify word)
  | .exited        => some (session verify image c word)
  | .failed        => none

/-- A session that fails after its first `k` requests: EXIT at once (R223). -/
def failedSession (k : Nat) (verify : Bool) (image : List Operand) (c word : Operand) : List Instr :=
  (session verify image c word).take k ++ [.exit]

/-- The client's comparison of a value read back with the word it loaded: against `w & 0x3FFF` (R182,
R230, C7). -/
def readBackMatches (w : Operand) (v : Payload) : Bool := v == payloadOfOperand w

end Sys2Proof.Machine
end

