-- ==== Sys2Proof/WellFormed.lean ====
section
/-! DEFINITION. What is well-formed. A request needs no check: "all eight `op` values are defined, so no
request word is illegal" (R80), and its operand's width is in its type. A configuration is checked by
`Params.wellFormed` (R8). An assembly line is checked here (R81). -/

namespace Sys2Proof

/-- Whether a name takes an operand (R81, R82). -/
def AsmName.takesOperand : AsmName → Bool
  | .enter          => false
  | .loadProgram    => true
  | .incrementAddr  => false
  | .beginProgram   => false
  | .bulkErase      => false
  | .loadConfig     => true
  | .readProgram    => false
  | .exit           => false
  | .eraseAll       => false
  | .programWord    => true
  | .programVerify  => true
  | .seekConfigWord => true

/-- Why an assembler refuses a line (R81). -/
inductive AsmError where
  /-- the first word is no mnemonic and no macro -/
  | unknownName
  /-- the name takes an operand and the line has none -/
  | missingOperand
  /-- the line has more words than its name takes -/
  | unexpectedOperand
  /-- the operand is no unsigned hexadecimal or decimal number -/
  | notANumber
  /-- the operand is above 0xFFFF -/
  | operandTooLarge
deriving DecidableEq, Repr

/-- The check of an assembly line: its operand stands where its name takes one, and is "`0` to `0xFFFF`
(an assembler refuses a larger value)" (R81). -/
def AsmLine.check (l : AsmLine) : Except AsmError Unit :=
  match l.name.takesOperand, l.operand with
  | true,  none   => .error .missingOperand
  | false, some _ => .error .unexpectedOperand
  | false, none   => .ok ()
  | true,  some n => if n ≤ 0xFFFF then .ok () else .error .operandTooLarge

/-- A line an assembler accepts (R81). -/
def AsmLine.wellFormed (l : AsmLine) : Bool :=
  match l.check with
  | .ok _    => true
  | .error _ => false

end Sys2Proof
end

