-- ==== Sys2Proof/Machine/Assembler.lean ====
section
/-! DEFINITION. The assembly notation of spec/30_encoding.md R81 and R82, from a line of text to request
words. Spacing, empty lines and the case of hexadecimal digits are the model's choice (log 11). -/

namespace Sys2Proof.Machine

/-- The requests a name and its operand stand for (R77, R82). -/
def expand (name : AsmName) (w : Operand) : List Instr :=
  match name with
  | .enter          => [.enter]
  | .loadProgram    => [.loadProgram w]
  | .incrementAddr  => [.incrementAddr]
  | .beginProgram   => [.beginProgram]
  | .bulkErase      => [.bulkErase]
  | .loadConfig     => [.loadConfig w]
  | .readProgram    => [.readProgram]
  | .exit           => [.exit]
  | .eraseAll       => eraseAll
  | .programWord    => programWord w
  | .programVerify  => programVerify w
  | .seekConfigWord => seekConfigWord w

/-- The request words of a line, or why an assembler refuses it (R81). -/
def assemble (l : AsmLine) : Except AsmError (List RequestWord) :=
  match l.check with
  | .ok _    => .ok ((expand l.name (BitVec.ofNat 16 (l.operand.getD 0))).map encode)
  | .error e => .error e

/-- The names as they are written: "in upper case" (R81, R82). -/
def spelling : AsmName → List Char
  | .enter          => ['E', 'N', 'T', 'E', 'R']
  | .loadProgram    => ['L', 'O', 'A', 'D', '_', 'P', 'R', 'O', 'G', 'R', 'A', 'M']
  | .incrementAddr  => ['I', 'N', 'C', 'R', 'E', 'M', 'E', 'N', 'T', '_', 'A', 'D', 'D', 'R']
  | .beginProgram   => ['B', 'E', 'G', 'I', 'N', '_', 'P', 'R', 'O', 'G', 'R', 'A', 'M']
  | .bulkErase      => ['B', 'U', 'L', 'K', '_', 'E', 'R', 'A', 'S', 'E']
  | .loadConfig     => ['L', 'O', 'A', 'D', '_', 'C', 'O', 'N', 'F', 'I', 'G']
  | .readProgram    => ['R', 'E', 'A', 'D', '_', 'P', 'R', 'O', 'G', 'R', 'A', 'M']
  | .exit           => ['E', 'X', 'I', 'T']
  | .eraseAll       => ['E', 'R', 'A', 'S', 'E', '_', 'A', 'L', 'L']
  | .programWord    => ['P', 'R', 'O', 'G', 'R', 'A', 'M', '_', 'W', 'O', 'R', 'D']
  | .programVerify  => ['P', 'R', 'O', 'G', 'R', 'A', 'M', '_', 'V', 'E', 'R', 'I', 'F', 'Y']
  | .seekConfigWord => ['S', 'E', 'E', 'K', '_', 'C', 'O', 'N', 'F', 'I', 'G', '_', 'W', 'O', 'R', 'D']

/-- Every name. -/
def asmNames : List AsmName :=
  [.enter, .loadProgram, .incrementAddr, .beginProgram, .bulkErase, .loadConfig, .readProgram, .exit,
    .eraseAll, .programWord, .programVerify, .seekConfigWord]

/-- The name a word of text spells. -/
def asmName (word : List Char) : Option AsmName := asmNames.find? (fun n => spelling n == word)

/-- The value of a digit, in either case. -/
def digitValue (c : Char) : Option Nat :=
  let n := c.toNat
  if 48 ≤ n ∧ n ≤ 57 then some (n - 48)
  else if 65 ≤ n ∧ n ≤ 70 then some (n - 55)
  else if 97 ≤ n ∧ n ≤ 102 then some (n - 87)
  else none

/-- The number some digits of a base spell, most significant first, after the value so far. -/
def digitsValue (base : Nat) : Nat → List Char → Option Nat
  | acc, []      => some acc
  | acc, c :: cs =>
    match digitValue c with
    | some d => if d < base then digitsValue base (acc * base + d) cs else none
    | none   => none

/-- "an unsigned integer in `0x`-hexadecimal or decimal" (R81); at least one digit. -/
def number (word : List Char) : Option Nat :=
  match word with
  | '0' :: 'x' :: d :: ds => digitsValue 16 0 (d :: ds)
  | d :: ds               => digitsValue 10 0 (d :: ds)
  | []                    => none

/-- A line without its comment: "`;` starts a comment" (R81). -/
def withoutComment (text : List Char) : List Char := text.takeWhile (fun c => c != ';')

/-- The words of a line; the second argument is the word being read, its last character first. -/
def words : List Char → List Char → List (List Char)
  | [],      []  => []
  | [],      w :: ws => [(w :: ws).reverse]
  | c :: cs, word =>
    if c = ' ' ∨ c = '\t' then
      match word with
      | []      => words cs []
      | w :: ws => (w :: ws).reverse :: words cs []
    else words cs (c :: word)

/-- The line some words spell. -/
def asmLine : List (List Char) → Except AsmError (Option AsmLine)
  | [] => .ok none
  | [name] =>
    match asmName name with
    | some n => .ok (some ⟨n, none⟩)
    | none   => .error .unknownName
  | [name, operand] =>
    match asmName name, number operand with
    | some n, some v => .ok (some ⟨n, some v⟩)
    | some _, none   => .error .notANumber
    | none,   _      => .error .unknownName
  | name :: _ :: _ :: _ =>
    match asmName name with
    | some _ => .error .unexpectedOperand
    | none   => .error .unknownName

/-- The request words of one line of text. -/
def assembleText (text : List Char) : Except AsmError (List RequestWord) :=
  match asmLine (words (withoutComment text) []) with
  | .ok (some l) => assemble l
  | .ok none     => .ok []
  | .error e     => .error e

/-- A hexadecimal digit. -/
def hexDigit (n : Nat) : Char := if n < 10 then Char.ofNat (48 + n) else Char.ofNat (55 + n)

/-- An operand as the spec writes it: `0x` and four digits. -/
def hexOperand (w : Operand) : List Char :=
  ['0', 'x', hexDigit (w.toNat / 4096 % 16), hexDigit (w.toNat / 256 % 16),
   hexDigit (w.toNat / 16 % 16), hexDigit (w.toNat % 16)]

/-- The line of text that stands for a request (R81). -/
def lineOf : Instr → List Char
  | .enter         => spelling .enter
  | .loadProgram w => spelling .loadProgram ++ [' '] ++ hexOperand w
  | .incrementAddr => spelling .incrementAddr
  | .beginProgram  => spelling .beginProgram
  | .bulkErase     => spelling .bulkErase
  | .loadConfig w  => spelling .loadConfig ++ [' '] ++ hexOperand w
  | .readProgram   => spelling .readProgram
  | .exit          => spelling .exit

end Sys2Proof.Machine
end

