-- ==== Sys2Proof/Machine/Target.lean ====
section
/-! DEFINITION. What spec/20_memory.md R51 to R53 and R60 say of the target's address regions. The target
is no state of the block (R33) and no meaning reads any of this but the constants. -/

namespace Sys2Proof.Machine

/-- The two word-addressed regions of the target (R51). -/
inductive Region where
  | program
  | configuration
deriving DecidableEq, Repr

/-- The word address at which a region begins (R51). -/
def Region.base : Region → Addr
  | .program       => 0x0000#16
  | .configuration => 0x2000#16

/-- The region the target's cursor is in: "`MODE`, not `ADDR`, records which region the cursor is in"
(R23, R26). In OFF it is in none. -/
def Mode.region : Mode → Option Region
  | .off    => none
  | .prog   => some .program
  | .config => some .configuration

/-- The word address of the configuration word, the image's byte offset halved: `0x400E / 2` (R52). -/
def configWordAddr : Addr := 0x400E#16 >>> 1

/-- At which place in the target a request acts (R53). -/
inductive Place where
  | atCursor
  | movesCursor
  | wholeTarget
  | entersOrLeaves
deriving DecidableEq, Repr

/-- R53, row by row. -/
def place : Instr → Place
  | .enter         => .entersOrLeaves
  | .loadProgram _ => .atCursor
  | .incrementAddr => .movesCursor
  | .beginProgram  => .atCursor
  | .bulkErase     => .wholeTarget
  | .loadConfig _  => .movesCursor
  | .readProgram   => .atCursor
  | .exit          => .entersOrLeaves

/-- Whether the spec says that repeating a request changes the target again (R60): `some true` where it
says so, `none` where "not in the source". -/
def changesTargetEachTime : Instr → Option Bool
  | .enter         => none
  | .loadProgram _ => none
  | .incrementAddr => some true
  | .beginProgram  => some true
  | .bulkErase     => some true
  | .loadConfig _  => none
  | .readProgram   => none
  | .exit          => none

end Sys2Proof.Machine
end

