-- ==== Sys2Proof/Machine/Observe.lean ====
section
/-! DEFINITION. What an onlooker at the SignalTransport port can say of a list of actions: line levels,
clock edges, the bits clocked out, lower bounds on time (spec/40_serializer.md R105, R106;
spec/20_memory.md R62; spec/70_reset_and_hazards.md R231). No meaning reads any of it. -/

namespace Sys2Proof.Machine

/-- The level of a line after some actions, from its level before them (R27). -/
def levelAfter (l : Line) : Level → List Action → Level
  | v, []               => v
  | v, .set l' v' :: acts => levelAfter l (if l' = l then v' else v) acts
  | v, .read :: acts    => levelAfter l v acts
  | v, .delay _ :: acts => levelAfter l v acts

/-- Rising edges of the clock in some actions, from the clock's level before them (R106). -/
def risingEdges : Level → List Action → Nat
  | _, []                     => 0
  | v, .set .clk true :: acts  => risingEdges true acts + (if v then 0 else 1)
  | _, .set .clk false :: acts => risingEdges false acts
  | v, .set .data _ :: acts   => risingEdges v acts
  | v, .set .vpp _ :: acts    => risingEdges v acts
  | v, .set .en _ :: acts     => risingEdges v acts
  | v, .read :: acts          => risingEdges v acts
  | v, .delay _ :: acts       => risingEdges v acts

/-- Falling edges of the clock in some actions, from the clock's level before them (R106). -/
def fallingEdges : Level → List Action → Nat
  | _, []                     => 0
  | _, .set .clk true :: acts  => fallingEdges true acts
  | v, .set .clk false :: acts => fallingEdges false acts + (if v then 1 else 0)
  | v, .set .data _ :: acts   => fallingEdges v acts
  | v, .set .vpp _ :: acts    => fallingEdges v acts
  | v, .set .en _ :: acts     => fallingEdges v acts
  | v, .read :: acts          => fallingEdges v acts
  | v, .delay _ :: acts       => fallingEdges v acts

/-- The bits the block drives on the wire: the level driven on `DATA` at each falling edge of the clock,
in order, from the levels of clock and data before. Position `t` of the list is bit cell `t` of R70. -/
def clockedBits : (clk data : Level) → List Action → List Level
  | _, _, []                      => []
  | _, d, .set .clk true :: acts   => clockedBits true d acts
  | true, d, .set .clk false :: acts  => d :: clockedBits false d acts
  | false, d, .set .clk false :: acts => clockedBits false d acts
  | c, _, .set .data v :: acts    => clockedBits c v acts
  | c, d, .set .vpp _ :: acts     => clockedBits c d acts
  | c, d, .set .en _ :: acts      => clockedBits c d acts
  | c, d, .read :: acts           => clockedBits c d acts
  | c, d, .delay _ :: acts        => clockedBits c d acts

/-- Every setting of `DATA` in some actions, with the clock's level at that moment, from the clock's level
before them: pairs of clock level and level set (R106). -/
def dataDrives : (clk : Level) → List Action → List (Level × Level)
  | _, []                   => []
  | _, .set .clk v :: acts  => dataDrives v acts
  | c, .set .data v :: acts => (c, v) :: dataDrives c acts
  | c, .set .vpp _ :: acts  => dataDrives c acts
  | c, .set .en _ :: acts   => dataDrives c acts
  | c, .read :: acts        => dataDrives c acts
  | c, .delay _ :: acts     => dataDrives c acts

/-- The least time an action takes up before the next one (R11, R62): only a delay takes any. -/
def Action.minUs : Action → Nat
  | .set _ _  => 0
  | .read     => 0
  | .delay us => us

/-- The sum of the delays of some actions (R231). -/
def delaySum (acts : List Action) : Nat := (acts.map Action.minUs).sum

/-- How many of some actions are delays (R105). -/
def delayCount : List Action → Nat
  | []               => 0
  | .delay _ :: acts => delayCount acts + 1
  | .set _ _ :: acts => delayCount acts
  | .read :: acts    => delayCount acts

/-- How many of some actions set a line (R105). -/
def setCount : List Action → Nat
  | []               => 0
  | .set _ _ :: acts => setCount acts + 1
  | .delay _ :: acts => setCount acts
  | .read :: acts    => setCount acts

/-- A timed trace honours its delays between the times `start` and `stop`, in microseconds: the actions
begin in order, and after each at least its delay passes, with no upper bound (R62, R224, log 15). -/
def honoursDelays (stop : Nat) : (start : Nat) → List (Action × Nat) → Prop
  | start, []             => start ≤ stop
  | start, (a, t) :: rest => start ≤ t ∧ honoursDelays stop (t + a.minUs) rest

/-- The requests of a list are performed one after the other (R61); the client stops where one has no
next state. -/
def performAll : List Instr → State → Result
  | [],      s => .next s
  | i :: is, s =>
    match exec i s with
    | .next t    => performAll is t
    | .fault r   => .fault r
    | .refused r => .refused r

end Sys2Proof.Machine
end

