-- ==== Sys2Proof/Safety.lean ====
section
/-! DEFINITION. What every state between two steps should meet: spec/10_state.md R23, R27, R29;
spec/60_exceptions.md R214. -/

namespace Sys2Proof.Machine

/-- The clock is low between requests: "At every request boundary `LINE_CLK = 0`" (R29). -/
def ClockLow (s : State) : Prop := s.block.lineClk = false

/-- In OFF "all control lines have been driven low" (R23, R214); in PROG and CONFIG the program voltage
and the enable line are up (R120, R125). -/
def PowerAgrees (s : State) : Prop :=
  if s.block.mode = .off then
    s.block.lineData = false ∧ s.block.lineVpp = false ∧ s.block.lineEn = false
  else
    s.block.lineVpp = true ∧ s.block.lineEn = true

/-- "Each `LINE_L` field holds the level the block last drove on line `L`" (R27), and 0 where it has
driven none since reset (R220). -/
def LinesFollowTrace (s : State) : Prop :=
  ∀ l : Line, s.block.line l = levelAfter l false s.trace

/-- How many readings of `DATA` were performed so far, over all resets (R11). -/
def readings (s : State) : Nat := readCount s.trace + (s.pastTraces.map readCount).sum

/-- The invariant of the machine between two steps. -/
structure State.Inv (s : State) : Prop where
  clockLow         : ClockLow s
  powerAgrees      : PowerAgrees s
  linesFollowTrace : LinesFollowTrace s

end Sys2Proof.Machine
end

