-- ==== Sys2Proof/Certificates/Slice0/Obligations.lean ====
section
/-! DEFINITION. The statements for the provers. `Sys2Proof.Manual` writes down spec/'s own tables once,
beside the model; no meaning reads it. Where a docstring says "the spec's own", the rule rests on the
decisions D<n> of spec/92_eei_decisions.md it names, or is marked [derived] there. -/

open Sys2Proof Sys2Proof.Machine

namespace Sys2Proof.Manual

/-- The block is in programming mode, where command-carrying requests proceed (R201). -/
abbrev Entered (s : State) : Prop := s.block.mode ≠ .off

/-- The "transmitted `c[0]..c[5]`" column of R71. -/
def transmitted (p : Params) : WireCommand → List Level
  | .loadProgram   => [false, true, false, false, false, false]
  | .incrementAddr => [false, true, true, false, false, false]
  | .beginProgram  =>
    if p.beginProgramCmd = 0x18#6 then [false, false, false, true, true, false]
    else [false, false, false, true, false, false]
  | .bulkErase     => [true, false, false, true, false, false]
  | .loadConfig    => [false, false, false, false, false, false]
  | .readProgram   => [false, false, true, false, false, false]

/-- The layout of a sent frame, R55: padding, the 14 payload bits, padding. -/
def frameBits (w : Operand) : List Level := [false] ++ (List.range 14).map w.getLsbD ++ [false]

/-- Bit cells that send some bits. -/
def sending (p : Params) (bits : List Level) : List Action := bits.flatMap (cellOut p)

/-- The actions of the two load requests (R140, R141). -/
def loadActions (p : Params) (c : WireCommand) (w : Operand) : List Action :=
  sending p (transmitted p c) ++ [.delay p.tCmdDataUs] ++ sending p (frameBits w)
    ++ [.delay p.tPostUs]

/-- The actions of ENTER (R120). -/
def entryActions (p : Params) : List Action :=
  [.set .clk false, .set .data false, .set .vpp false, .set .en false, .delay p.tSettleUs] ++
    match p.raiseOrder with
    | .voltageFirst =>
      [.set .vpp true, .delay p.tRaise1Us, .set .en true, .delay p.tRaise2Us]
    | .enableFirst =>
      [.set .en true, .delay p.tRaise1Us, .set .vpp true, .delay p.tRaise2Us]

/-- The actions of READ_PROGRAM (R180). -/
def readActions (p : Params) : List Action :=
  sending p (transmitted p .readProgram) ++ [.set .data true, .delay p.tCmdDataUs]
    ++ (List.replicate 16 (cellIn p)).flatten ++ [.delay p.tPostUs]

/-- The state after a request: the block as given, the actions appended, one response given, and
everything else as before (the environment's answers among it). -/
def after (s : State) (block : Block) (acts : List Action) (r : Response) : State :=
  { s with block := block, trace := s.trace ++ acts, responses := s.responses ++ [r] }

/-- The table of R127: `MODE` after a request. -/
def modeAfter : Instr → Mode → Mode
  | .enter,         _       => .prog
  | .loadProgram _, .off    => .off
  | .loadProgram _, .prog   => .prog
  | .loadProgram _, .config => .config
  | .incrementAddr, .off    => .off
  | .incrementAddr, .prog   => .prog
  | .incrementAddr, .config => .config
  | .beginProgram,  .off    => .off
  | .beginProgram,  .prog   => .prog
  | .beginProgram,  .config => .config
  | .bulkErase,     .off    => .off
  | .bulkErase,     .prog   => .prog
  | .bulkErase,     .config => .config
  | .loadConfig _,  .off    => .off
  | .loadConfig _,  .prog   => .config
  | .loadConfig _,  .config => .config
  | .readProgram,   .off    => .off
  | .readProgram,   .prog   => .prog
  | .readProgram,   .config => .config
  | .exit,          _       => .off

/-- The table of R127: `ADDR` after a request, as a number. -/
def addrAfter (i : Instr) (m : Mode) (a : Nat) : Nat :=
  match i, m with
  | .enter,         _       => 0
  | .incrementAddr, .prog   => (a + 1) % 2 ^ 16
  | .incrementAddr, .config => (a + 1) % 2 ^ 16
  | .loadConfig _,  .prog   => 0x2000
  | .loadConfig _,  .config => 0x2000
  | _,              _       => a

/-- Whether a request raises `E_NOT_ENTERED` (R200, R201). -/
def traps (i : Instr) (m : Mode) : Bool :=
  match i, m with
  | .enter, _ => false
  | .exit,  _ => false
  | _, .off   => true
  | _, _      => false

/-- `T_BIT` (R231). -/
def tBit (p : Params) : Nat := p.tSetUs + p.tHoldUs

/-- The "actions" column of R231. -/
def actionCount : Instr → Nat
  | .enter         => 9
  | .loadProgram _ => 112
  | .incrementAddr => 31
  | .beginProgram  => 31
  | .bulkErase     => 31
  | .loadConfig _  => 112
  | .readProgram   => 113
  | .exit          => 4

/-- The "sum of delays" column of R231. -/
def delayTotal (p : Params) : Instr → Nat
  | .enter         => p.tSettleUs + p.tRaise1Us + p.tRaise2Us
  | .loadProgram _ => 22 * tBit p + p.tCmdDataUs + p.tPostUs
  | .incrementAddr => 6 * tBit p + p.tPostUs
  | .beginProgram  => 6 * tBit p + p.tProgUs
  | .bulkErase     => 6 * tBit p + p.tEraseUs
  | .loadConfig _  => 22 * tBit p + p.tCmdDataUs + p.tPostUs
  | .readProgram   => 22 * tBit p + p.tCmdDataUs + p.tPostUs
  | .exit          => 0

/-- Position `k` of the transaction of a request, by the formats of R70: command bits, then in
`W_CMD_DOUT` the frame, and in `W_CMD_DIN` the level 1 at which the block holds `DATA` released. -/
def wireBit (p : Params) (i : Instr) (c : WireCommand) (k : Nat) : Level :=
  if k < 6 then (c.code p).getLsbD k
  else
    match i with
    | .loadProgram w => if k = 6 ∨ k = 21 then false else w.getLsbD (k - 7)
    | .loadConfig w  => if k = 6 ∨ k = 21 then false else w.getLsbD (k - 7)
    | _              => true

/-- The delays among some actions, in order. -/
def delaysOf (acts : List Action) : List Nat :=
  acts.filterMap fun a => match a with
    | .delay n => some n
    | _        => none

/-- The configured delays (R7). -/
def configuredDelays (p : Params) : List Nat :=
  [p.tSetUs, p.tHoldUs, p.tSettleUs, p.tRaise1Us, p.tRaise2Us, p.tCmdDataUs, p.tPostUs, p.tProgUs,
    p.tEraseUs]

/-- A numeral of R81 as text: `0x` and hexadecimal digits, or decimal digits. -/
def numeralText (hex : Bool) (ds : List Nat) : List Char :=
  if hex then '0' :: 'x' :: ds.map hexDigit else ds.map (fun d => Char.ofNat (48 + d))

/-- The base of a numeral. -/
def baseOf (hex : Bool) : Nat := if hex then 16 else 10

/-- The number some digits mean, the most significant first. -/
def numeralValue (hex : Bool) (ds : List Nat) : Nat := ds.foldl (fun n d => baseOf hex * n + d) 0

/-- The words of an assembly line that takes an operand. -/
def operandWord (op : Nat) (n : Nat) : RequestWord := BitVec.ofNat 19 (op * 2 ^ 16 + n)

end Sys2Proof.Manual

open Sys2Proof.Manual

/-! ### Requests: result, completion and frame -/

/-- R120, R122 (the spec's own D10 to D12): ENTER completes from every state, with the nine actions of
the entry sequence in the configured raise order; MODE is PROG, ADDR 0, and nothing else changes. -/
def Obligations.EnterRunsTheEntrySequence : Prop :=
  ∀ s : State, exec .enter s = .next (after s
    { mode := .prog, addr := 0#16, lineClk := false, lineData := false, lineVpp := true, lineEn := true }
    (entryActions s.params.p) .ok)

/-- R125 (the spec's own D9, D13): EXIT completes from every state, lowers the four lines in order and
leaves MODE at OFF; ADDR and everything else is unchanged. -/
def Obligations.ExitLowersEveryLine : Prop :=
  ∀ s : State, exec .exit s = .next (after s
    { mode := .off, addr := s.block.addr, lineClk := false, lineData := false, lineVpp := false,
      lineEn := false }
    [.set .clk false, .set .data false, .set .vpp false, .set .en false] .ok)

/-- R140 (the spec's own D15, D16 for the two delays): in programming mode LOAD_PROGRAM completes for
every operand; it changes the clock and data lines, the trace and the responses, and nothing else. -/
def Obligations.LoadProgramSendsItsFrame : Prop :=
  ∀ (w : Operand) (s : State), Entered s →
    exec (.loadProgram w) s = .next (after s { s.block with lineClk := false, lineData := false }
      (loadActions s.params.p .loadProgram w) .ok)

/-- R141 (the spec's own D15, D16, D26, D37): in programming mode LOAD_CONFIG completes for every
operand; MODE becomes CONFIG and ADDR 0x2000, from PROG and from CONFIG alike. -/
def Obligations.LoadConfigMovesToTheConfigurationRegion : Prop :=
  ∀ (w : Operand) (s : State), Entered s →
    exec (.loadConfig w) s = .next (after s
      { s.block with mode := .config, addr := 0x2000#16, lineClk := false, lineData := false }
      (loadActions s.params.p .loadConfig w) .ok)

/-- R142 (the spec's own D9, D16): in programming mode INCREMENT_ADDR completes; ADDR advances by one
modulo 2^16 and MODE stays. -/
def Obligations.IncrementAddrAdvancesTheShadowAddress : Prop :=
  ∀ s : State, Entered s →
    exec .incrementAddr s = .next (after s
      { s.block with
        addr := BitVec.ofNat 16 ((s.block.addr.toNat + 1) % 2 ^ 16), lineClk := false, lineData := false }
      (sending s.params.p (transmitted s.params.p .incrementAddr) ++ [.delay s.params.p.tPostUs]) .ok)

/-- R160, R71 (the spec's own D21, D25): in programming mode BEGIN_PROGRAM completes; it sends the
configured code and waits the program pulse, and changes only the two lines. -/
def Obligations.BeginProgramSendsTheConfiguredCode : Prop :=
  ∀ s : State, Entered s →
    exec .beginProgram s = .next (after s { s.block with lineClk := false, lineData := false }
      (sending s.params.p (transmitted s.params.p .beginProgram) ++ [.delay s.params.p.tProgUs]) .ok)

/-- R162 (the spec's own D22, D24, D25): in programming mode BULK_ERASE completes; it sends 0x09 and
waits the erase delay, and changes only the two lines. -/
def Obligations.BulkEraseSendsItsCode : Prop :=
  ∀ s : State, Entered s →
    exec .bulkErase s = .next (after s { s.block with lineClk := false, lineData := false }
      (sending s.params.p (transmitted s.params.p .bulkErase) ++ [.delay s.params.p.tEraseUs]) .ok)

/-- R180, R74 (the spec's own D15, D16, D18 to D20): in programming mode READ_PROGRAM completes whatever
the environment answers; its value is the second to the fifteenth of the 16 levels ahead, DATA is left
driven high, and 16 answers are drawn. -/
def Obligations.ReadProgramReturnsTheLevelsAnswered : Prop :=
  ∀ s : State, Entered s →
    ∃ v : Payload, (∀ i, i < 14 → v.getLsbD i = upcomingLevel s (i + 1)) ∧
      exec .readProgram s = .next
        { after s { s.block with lineClk := false, lineData := true } (readActions s.params.p)
            (.okValue v) with
          answers := s.answers.drop 16, draws := s.draws + 16 }

/-! ### The exception -/

/-- R200 to R202 (the spec's own D4, D7): each of the six command-carrying requests in OFF ends with the
response word 0x4000 and leaves everything else as it was. -/
def Obligations.CommandsBeforeEntryRaiseNotEntered : Prop :=
  ∀ (i : Instr) (s : State), s.block.mode = .off → i ≠ .enter → i ≠ .exit →
    exec i s = .next { s with responses := s.responses ++ [.err .notEntered] }
      ∧ (Response.err .notEntered).word = 0x4000#16

/-- R201 (the spec's own D7, D25): the error response is given exactly where MODE is OFF and the request
is neither ENTER nor EXIT; no other condition is checked. -/
def Obligations.NothingElseRaisesTheException : Prop :=
  ∀ (i : Instr) (s : State), ∃ (t : State) (r : Response),
    exec i s = .next t ∧ t.responses = s.responses ++ [r]
      ∧ (r = .err .notEntered ↔ traps i s.block.mode = true)

/-- R79 (the spec's own D4): every request gives one response; the status in its word is 1 exactly where
the request faults and else 0, and the value is what READ_PROGRAM read, bit by bit, and else 0; only
READ_PROGRAM gives `okValue`. The words of the three kinds of response are written out. -/
def Obligations.ResponseWordsHoldStatusAndValue : Prop :=
  (∀ (i : Instr) (s : State), ∃ (t : State) (r : Response),
    exec i s = .next t ∧ t.responses = s.responses ++ [r]
      ∧ r.word.extractLsb' 14 2 = r.status ∧ r.word.extractLsb' 0 14 = r.value
      ∧ r.word.extractLsb' 14 2 = (if traps i s.block.mode then 1#2 else 0#2)
      ∧ ((∃ v, r = .okValue v) ↔ i = .readProgram ∧ traps i s.block.mode = false)
      ∧ (i ≠ .readProgram ∨ traps i s.block.mode = true → r.word.extractLsb' 0 14 = 0#14)
      ∧ (i = .readProgram → traps i s.block.mode = false →
          ∀ k, k < 14 → r.word.getLsbD k = upcomingLevel s (k + 1)))
  ∧ Response.ok.word = 0x0000#16
  ∧ (∀ v : Payload, (Response.okValue v).word = v.setWidth 16)
  ∧ (Response.err .notEntered).word = 0x4000#16

/-! ### Modes and the shadow address -/

/-- R127 (the spec's own D7, D8, D9, D26): every request in every mode completes, with MODE and ADDR as
the table says; a request that faults performs no action and leaves the block unchanged. -/
def Obligations.ModeTransitionTable : Prop :=
  ∀ (i : Instr) (s : State), ∃ t : State, exec i s = .next t
    ∧ t.block.mode = modeAfter i s.block.mode
    ∧ t.block.addr.toNat = addrAfter i s.block.mode s.block.addr.toNat
    ∧ (traps i s.block.mode = true → emitted s t = [] ∧ t.block = s.block)

/-- R123, R228 ([derived] in the spec): from CONFIG no sequence of requests without an ENTER leads to
PROG, however long; and no single request but ENTER and LOAD_CONFIG writes ADDR other than by one
increment. -/
def Obligations.ConfigurationRegionIsLeftOnlyByEnter : Prop :=
  (∀ (is : List Instr) (s : State), s.block.mode = .config → .enter ∉ is →
    ∃ t : State, performAll is s = .next t ∧ t.block.mode ≠ .prog)
  ∧ ∀ (i : Instr) (s t : State), exec i s = .next t → i ≠ .enter → (∀ w, i ≠ .loadConfig w) →
    t.block.addr = s.block.addr ∨ (i = .incrementAddr ∧ t.block.addr = s.block.addr + 1#16)

/-- R52, R143, D37 ([derived] in the spec): from programming mode, LOAD_CONFIG and seven INCREMENT_ADDR
lead to the configuration word's address, 0x400E halved. -/
def Obligations.ConfigurationWordIsReachedBySeekMacro : Prop :=
  ∀ (c : Operand) (s : State), Entered s →
    ∃ t : State, performAll (seekConfigWord c) s = .next t
      ∧ t.block.mode = .config ∧ t.block.mode.region = some .configuration
      ∧ t.block.addr = configWordAddr ∧ t.block.addr.toNat = 0x2007

/-- R126 ([derived] in the spec, with D8): in OFF, EXIT performs its four actions and leaves the block as it
was; after one EXIT from any state, a second one leaves the block as the first did. The premises rule
out states no run reaches; `StepKeepsTheInvariant` states that they are kept. -/
def Obligations.ExitMayBeRepeated : Prop :=
  (∀ s : State, ClockLow s → PowerAgrees s → s.block.mode = .off →
    ∃ t : State, exec .exit s = .next t ∧ t.block = s.block ∧ (emitted s t).length = 4)
  ∧ ∀ s : State, ∃ t u : State, exec .exit s = .next t ∧ exec .exit t = .next u ∧ u.block = t.block
      ∧ emitted t u = emitted s t

/-! ### The wire -/

/-- R54: both fields go LSB first, whatever the configuration: a command, a sent frame, and a received
frame, whose bit `k` is the `k`-th level answered. -/
def Obligations.FieldsTravelLeastSignificantBitFirst : Prop :=
  ∀ s : State, s.block.lineClk = false →
    (∀ c : Command, clockedBits false s.block.lineData (emitted s (sendCommand c s))
      = [c.getLsbD 0, c.getLsbD 1, c.getLsbD 2, c.getLsbD 3, c.getLsbD 4, c.getLsbD 5])
    ∧ (∀ w : Operand, ∀ k, k < 16 →
      (clockedBits false s.block.lineData (emitted s (sendData w s)))[k]? = some ((frameOf w).getLsbD k))
    ∧ ∀ k, k < 16 → (receiveBits 16 0 0#16 s).1.getLsbD k = upcomingLevel s k

/-- R102: `SendCommand` is the six bit cells of the command from `c[0]` to `c[5]`, 30 actions, of which
six set delays and six hold delays in turn; `DATA` is left at `c[5]`, which is 0 for every code the block
sends. -/
def Obligations.SendCommandIsSixBitCells : Prop :=
  (∀ (c : Command) (s : State),
    sendCommand c s = { s with
      block := { s.block with lineClk := false, lineData := c.getLsbD 5 }
      trace := s.trace ++ sending s.params.p
        [c.getLsbD 0, c.getLsbD 1, c.getLsbD 2, c.getLsbD 3, c.getLsbD 4, c.getLsbD 5] }
    ∧ (emitted s (sendCommand c s)).length = 30
    ∧ delaysOf (emitted s (sendCommand c s))
        = (List.replicate 6 [s.params.p.tSetUs, s.params.p.tHoldUs]).flatten)
  ∧ ∀ (cfg : Configuration) (c : WireCommand), (c.code cfg.p).getLsbD 5 = false

/-- R103: `SendData` is the sixteen bit cells of the frame `(w & 0x3FFF) << 1`, 80 actions, 32 of them
delays; the first and the last bit are 0 whatever the operand, and `DATA` is left at 0. With the corner
cases the rule gives. -/
def Obligations.SendDataIsSixteenBitCells : Prop :=
  (∀ (w : Operand) (s : State),
    sendData w s = { s with
      block := { s.block with lineClk := false, lineData := false }
      trace := s.trace ++ sending s.params.p (frameBits w) }
    ∧ (emitted s (sendData w s)).length = 80 ∧ delayCount (emitted s (sendData w s)) = 32
    ∧ bitsLsbFirst ((w &&& 0x3FFF#16) <<< 1) = frameBits w
    ∧ (frameBits w).head? = some false ∧ (frameBits w).getLast? = some false)
  ∧ frameOf 0xFFFF#16 = 0x7FFE#16 ∧ frameOf 0x3FFF#16 = 0x7FFE#16 ∧ frameOf 0xC000#16 = 0x0000#16
  ∧ frameOf 0x2000#16 = 0x4000#16

/-- R73: the frame a load sends is the operand's low 14 bits doubled, laid out as padding, payload,
padding; operands that agree in bits 13 to 0 are the same request to the block. -/
def Obligations.SentFrameIsTheMaskedOperandShifted : Prop :=
  ∀ (w : Operand) (s : State), Entered s → s.block.lineClk = false →
    (frameOf w).toNat = 2 * (w.toNat % 2 ^ 14)
    ∧ (frameOf w).getLsbD 0 = false ∧ (frameOf w).getLsbD 15 = false
    ∧ (∀ k, k < 14 → (frameOf w).getLsbD (k + 1) = w.getLsbD k)
    ∧ (∃ t, exec (.loadProgram w) s = .next t ∧
        (clockedBits false s.block.lineData (emitted s t)).drop 6 = bitsLsbFirst (frameOf w))
    ∧ (∃ t, exec (.loadConfig w) s = .next t ∧
        (clockedBits false s.block.lineData (emitted s t)).drop 6 = bitsLsbFirst (frameOf w))
    ∧ ∀ w' : Operand, (∀ k, k < 14 → w'.getLsbD k = w.getLsbD k) →
        exec (.loadProgram w') s = exec (.loadProgram w) s
        ∧ exec (.loadConfig w') s = exec (.loadConfig w) s

/-- R70, R75 (the spec's own D18 for the released data line): what an onlooker clocks out of every
command-carrying request is its transaction, bit by bit, with the length its format has. -/
def Obligations.WireTransactionsFollowTheirFormat : Prop :=
  ∀ (i : Instr) (c : WireCommand) (s : State), wireCommand i = some c → Entered s → ClockLow s →
    ∃ t : State, exec i s = .next t
      ∧ (clockedBits s.block.lineClk s.block.lineData (emitted s t)).length = c.format.cells
      ∧ ∀ k, k < c.format.cells →
          (clockedBits s.block.lineClk s.block.lineData (emitted s t))[k]?
            = some (wireBit s.params.p i c k)

/-- R80, R71 (the spec's own D2, D4 and D21): a request clocks out either nothing or a command that is one
of 0x00, 0x02, 0x04, 0x06, 0x09 and the selected one of 0x08 and 0x18. -/
def Obligations.OnlyListedCommandCodesAreEmitted : Prop :=
  ∀ (i : Instr) (s t : State), ClockLow s → exec i s = .next t →
    clockedBits s.block.lineClk s.block.lineData (emitted s t) = []
    ∨ ∃ c : Command, (clockedBits s.block.lineClk s.block.lineData (emitted s t)).take 6 = bitsLsbFirst c
        ∧ (c = 0x00#6 ∨ c = 0x02#6 ∨ c = 0x04#6 ∨ c = 0x06#6 ∨ c = 0x09#6
            ∨ (c = s.params.p.beginProgramCmd ∧ (c = 0x08#6 ∨ c = 0x18#6)))

/-- R106 ([derived] in the spec): a request that is carried out gives exactly one rising and one falling
clock edge per bit cell, none where it has no cell, and leaves the clock low. -/
def Obligations.OneClockPulsePerBitCell : Prop :=
  ∀ (i : Instr) (s : State), Entered s → ClockLow s →
    ∃ t : State, exec i s = .next t
      ∧ risingEdges s.block.lineClk (emitted s t) = wireCells i
      ∧ fallingEdges s.block.lineClk (emitted s t) = wireCells i
      ∧ levelAfter .clk s.block.lineClk (emitted s t) = false

/-- R106 ([derived] in the spec, with D18): in a command-carrying request `DATA` is driven while the clock
is low exactly once in READ_PROGRAM, to 1, and never in the others. -/
def Obligations.DataIsDrivenWhileTheClockIsHigh : Prop :=
  ∀ (i : Instr) (c : WireCommand) (s : State), wireCommand i = some c → Entered s → ClockLow s →
    ∃ t : State, exec i s = .next t
      ∧ (dataDrives s.block.lineClk (emitted s t)).filter (fun d => d.1 = false)
          = if i = .readProgram then [(false, true)] else []

/-- R25, R107, R181 (the spec's own D9, D34): what a request does on the lines depends on no state but
whether MODE is OFF; not on ADDR, the line levels, the answers, or any word loaded before. -/
def Obligations.ActionsDependOnlyOnEntryAndConfiguration : Prop :=
  ∀ (i : Instr) (s t : State), s.params = t.params → (s.block.mode = .off ↔ t.block.mode = .off) →
    ∃ s' t' : State, exec i s = .next s' ∧ exec i t = .next t' ∧ emitted s s' = emitted t t'

/-! ### Reading back -/

/-- R74, R180 (the spec's own D20): two reads whose 14 payload levels agree give the same response,
whatever the two padding levels and whatever else differs. -/
def Obligations.PaddingLevelsNeverAffectARead : Prop :=
  ∀ s t : State, Entered s → Entered t →
    (∀ k, 1 ≤ k → k ≤ 14 → upcomingLevel s k = upcomingLevel t k) →
    ∃ (s' t' : State) (v : Payload), exec .readProgram s = .next s' ∧ exec .readProgram t = .next t'
      ∧ s'.responses = s.responses ++ [.okValue v] ∧ t'.responses = t.responses ++ [.okValue v]

/-- R181 (the spec's own D34): the answers are free: for every 14-bit value and every two padding levels
there are answers that make READ_PROGRAM return that value, from every state in programming mode. -/
def Obligations.EveryReadValueIsPossible : Prop :=
  ∀ (s : State) (v : Payload) (first last : Level), Entered s →
    ∃ (levels : List Level) (t : State), levels.length = 16 ∧ levels.head? = some first
      ∧ levels.getLast? = some last ∧ exec .readProgram { s with answers := levels } = .next t
      ∧ t.responses = s.responses ++ [.okValue v] ∧ t.answers = []

/-- R230: the loads drop operand bits 15 and 14 without a fault, and a client that reads its own frame
back sees a false mismatch with the unmasked word exactly when those bits are set, and none with
`w & 0x3FFF`. -/
def Obligations.LoadsTruncateSilently : Prop :=
  ∀ (w : Operand) (s : State), Entered s →
    (∃ t, exec (.loadProgram w) s = .next t ∧ t.responses = s.responses ++ [.ok]
      ∧ exec (.loadProgram (w &&& 0x3FFF#16)) s = .next t)
    ∧ (∃ t, exec (.loadConfig w) s = .next t ∧ t.responses = s.responses ++ [.ok]
      ∧ exec (.loadConfig (w &&& 0x3FFF#16)) s = .next t)
    ∧ ∃ (t : State) (v : Payload),
        exec .readProgram { s with answers := frameBits w } = .next t
        ∧ t.responses = s.responses ++ [.okValue v]
        ∧ (v.setWidth 16 ≠ w ↔ (w.getLsbD 15 = true ∨ w.getLsbD 14 = true))
        ∧ v.setWidth 16 = w &&& 0x3FFF#16 ∧ readBackMatches w v = true

/-! ### Configuration and time -/

/-- R8 (the spec's own D35): a configuration record is refused at build exactly where it breaks one of the
listed conditions, and is built as it is otherwise. -/
def Obligations.IllFormedConfigurationsAreRefused : Prop :=
  ∀ p : Params,
    ((Configuration.build p).map Configuration.p = some p ↔
      (p.beginProgramCmd = 0x08#6 ∨ p.beginProgramCmd = 0x18#6)
      ∧ (p.entryVariant = .lowVoltage → 100000 ≤ p.tSettleUs)
      ∧ (p.entryVariant = .highVoltage → 1000000 ≤ p.tSettleUs)
      ∧ (p.progCycleKind = .oneShot → 2500 ≤ p.tProgUs)
      ∧ (p.progCycleKind = .programVerify → 6000 ≤ p.tProgUs)
      ∧ 6000 ≤ p.tEraseUs)
    ∧ ((Configuration.build p).map Configuration.p = some p ∨ Configuration.build p = none)

/-- R121, R120 (the spec's own D10, D11, D23): ENTER settles with every line low, whatever the lines were,
for at least the variant's minimum. -/
def Obligations.EnterSettlesWithEveryLineLow : Prop :=
  ∀ s : State, ∃ t : State, exec .enter s = .next t
    ∧ (∀ (l : Line) (v : Level), levelAfter l v ((emitted s t).take 4) = false)
    ∧ (emitted s t)[4]? = some (.delay s.params.p.tSettleUs)
    ∧ (s.params.p.entryVariant = .lowVoltage → 100000 ≤ s.params.p.tSettleUs)
    ∧ (s.params.p.entryVariant = .highVoltage → 1000000 ≤ s.params.p.tSettleUs)

/-- R161, R162 (the spec's own D21, D22, D24): the closing delays of BEGIN_PROGRAM and BULK_ERASE meet
their minimums. -/
def Obligations.ProgramAndErasePulsesMeetTheirMinimums : Prop :=
  ∀ s : State, Entered s →
    (∃ (t : State) (n : Nat), exec .beginProgram s = .next t ∧ (emitted s t).getLast? = some (.delay n)
      ∧ (s.params.p.progCycleKind = .oneShot → 2500 ≤ n)
      ∧ (s.params.p.progCycleKind = .programVerify → 6000 ≤ n))
    ∧ ∃ (t : State) (n : Nat), exec .bulkErase s = .next t ∧ (emitted s t).getLast? = some (.delay n)
        ∧ 6000 ≤ n

/-- R224, R7 (the spec's own D12 to D16): every delay a request emits is one of the configured values. -/
def Obligations.EveryDelayEmittedIsConfigured : Prop :=
  ∀ (i : Instr) (s t : State) (n : Nat), exec i s = .next t → .delay n ∈ emitted s t →
    n ∈ configuredDelays s.params.p

/-- R231 ([derived] in the spec): how many actions each request performs and what their delays sum to; a
request that faults performs none. -/
def Obligations.ActionCountsAndDelaySums : Prop :=
  ∀ (i : Instr) (s : State), ∃ t : State, exec i s = .next t
    ∧ (emitted s t).length = (if traps i s.block.mode then 0 else actionCount i)
    ∧ delaySum (emitted s t) = (if traps i s.block.mode then 0 else delayTotal s.params.p i)

/-- R105 ([derived] in the spec): the actions of `BitOut`, `BitIn`, `ReceiveData`, `SendCommand` and
`SendData`, how many of them set, read and delay, and the sum of the delays. -/
def Obligations.FrameProcedureCounts : Prop :=
  ∀ s : State,
    (∀ b : Level, (emitted s (bitOut b s)).length = 5 ∧ setCount (emitted s (bitOut b s)) = 3
      ∧ readCount (emitted s (bitOut b s)) = 0 ∧ delayCount (emitted s (bitOut b s)) = 2
      ∧ delaySum (emitted s (bitOut b s)) = tBit s.params.p)
    ∧ ((emitted s (bitIn s).2).length = 5 ∧ setCount (emitted s (bitIn s).2) = 2
      ∧ readCount (emitted s (bitIn s).2) = 1 ∧ delayCount (emitted s (bitIn s).2) = 2
      ∧ delaySum (emitted s (bitIn s).2) = tBit s.params.p)
    ∧ ((emitted s (receiveData s).2).length = 82
      ∧ setCount (emitted s (receiveData s).2) = 33 ∧ readCount (emitted s (receiveData s).2) = 16
      ∧ delayCount (emitted s (receiveData s).2) = 33
      ∧ delaySum (emitted s (receiveData s).2) = 16 * tBit s.params.p + s.params.p.tCmdDataUs)
    ∧ (∀ c : Command, (emitted s (sendCommand c s)).length = 30
      ∧ setCount (emitted s (sendCommand c s)) = 18
      ∧ readCount (emitted s (sendCommand c s)) = 0 ∧ delayCount (emitted s (sendCommand c s)) = 12
      ∧ delaySum (emitted s (sendCommand c s)) = 6 * tBit s.params.p)
    ∧ ∀ w : Operand, (emitted s (sendData w s)).length = 80
      ∧ setCount (emitted s (sendData w s)) = 48
      ∧ readCount (emitted s (sendData w s)) = 0 ∧ delayCount (emitted s (sendData w s)) = 32
      ∧ delaySum (emitted s (sendData w s)) = 16 * tBit s.params.p

/-- R62, R231 (the spec's own D34; log 15): however the environment times the actions of a request, if it
honours every delay then the request lasts at least the sum R231 gives. -/
def Obligations.ARequestLastsAtLeastItsDelays : Prop :=
  ∀ (i : Instr) (s t : State) (timed : List (Action × Nat)) (start stop : Nat),
    traps i s.block.mode = false → exec i s = .next t → timed.map Prod.fst = emitted s t →
    honoursDelays stop start timed → start + delayTotal s.params.p i ≤ stop

/-! ### Ordering -/

/-- R59, R61 (the spec's own D29, D33): any sequence of requests completes; its actions are appended to the
trace and its responses, one each, to the responses; sequences compose; the configuration, the earlier
traces, the status readings and the client's acts are untouched. -/
def Obligations.RequestsAreSerialised : Prop :=
  ∀ (is js : List Instr) (s : State),
    ∃ (t u : State) (acts acts' : List Action) (rs rs' : List Response),
      performAll is s = .next t ∧ performAll js t = .next u ∧ performAll (is ++ js) s = .next u
      ∧ t.trace = s.trace ++ acts ∧ u.trace = s.trace ++ acts ++ acts'
      ∧ t.responses = s.responses ++ rs ∧ rs.length = is.length
      ∧ u.responses = s.responses ++ rs ++ rs' ∧ rs'.length = js.length
      ∧ u.params = s.params ∧ u.pastTraces = s.pastTraces ∧ u.statusReads = s.statusReads
      ∧ u.inputs = s.inputs

/-- R60, R225 (with the spec's own D33): the block neither drops nor merges a repeated request: a
command-carrying request issued twice in programming mode performs its actions twice. -/
def Obligations.RepeatedRequestsAreSentAgain : Prop :=
  ∀ (i : Instr) (c : WireCommand) (s : State), wireCommand i = some c → Entered s →
    ∃ t u : State, exec i s = .next t ∧ exec i t = .next u ∧ emitted s t ≠ []
      ∧ u.trace = s.trace ++ emitted s t ++ emitted s t

/-- R164, R65 ([derived] in the spec): program-then-verify reads the data line only after the program
pulse's delay. -/
def Obligations.VerifyReadsAfterTheProgramPulse : Prop :=
  ∀ (w : Operand) (s : State), Entered s →
    ∃ (t : State) (before afterwards : List Action), performAll (programVerify w) s = .next t
      ∧ emitted s t = before ++ [.delay s.params.p.tProgUs] ++ afterwards
      ∧ readCount before = 0 ∧ readCount afterwards = 16
      ∧ clockedBits false s.block.lineData before
          = transmitted s.params.p .loadProgram ++ frameBits w ++ transmitted s.params.p .beginProgram

/-- R144, R82, C4 (context in the spec, with D25 and D32): whatever the image word, the client's requests
for it advance the cursor by exactly one and stay in the mode; for the sentinel 0xFFFF they send the
increment command alone. -/
def Obligations.EveryImageWordAdvancesTheCursorByOne : Prop :=
  ∀ (verify : Bool) (w : Operand) (s : State), Entered s → ClockLow s →
    ∃ t : State, performAll (imageWord verify w) s = .next t
      ∧ t.block.addr = s.block.addr + 1#16 ∧ t.block.mode = s.block.mode
      ∧ (w = 0xFFFF#16 → clockedBits s.block.lineClk s.block.lineData (emitted s t)
          = transmitted s.params.p .incrementAddr)

/-- R223 (context in the spec, with D25): the client's session, with the verification of program words on
or off and the configuration word always read back (R143, C10), completes from every state and for every
image, without an error response, and leaves the target powered down with ADDR at the configuration
word. -/
def Obligations.SessionsEndPoweredDown : Prop :=
  ∀ (verify : Bool) (image : List Operand) (c word : Operand) (s : State),
    ∃ (t : State) (rs : List Response), performAll (session verify image c word) s = .next t
      ∧ t.block = { mode := .off, addr := 0x2007#16, lineClk := false, lineData := false,
                    lineVpp := false, lineEn := false }
      ∧ t.responses = s.responses ++ rs ∧ .err .notEntered ∉ rs
      ∧ rs.length = (session verify image c word).length

/-- R128, R223 ([derived] in the spec, with D25; the configuration word is read back whether or not program
words are, R143, C10): from OFF, the requests issued up to each session state
complete with the MODE that state shows; and a session cut short anywhere by EXIT completes from every
state, with MODE OFF and every line low. -/
def Obligations.SessionStatesShowInMode : Prop :=
  ∀ (verify : Bool) (image : List Operand) (c word : Operand) (s : State),
    (∀ (st : SessionState) (is : List Instr), s.block.mode = .off →
      issuedIn verify image c word st = some is →
      ∃ t : State, performAll is s = .next t ∧ st.mode = some t.block.mode)
    ∧ ∀ k : Nat, ∃ t : State, performAll (failedSession k verify image c word) s = .next t
        ∧ t.block.mode = .off ∧ ∀ l : Line, t.block.line l = false

/-! ### Steps, the host port and reset -/

/-- R59, R77 and log 2: where the client's next act is a request word, the step is `exec` of the request it
decodes to, once the act is taken from the list; the same with the word presented as a table word. -/
def Obligations.StepRunsTheDecodedRequest : Prop :=
  (∀ (q : RequestWord) (rest : List HostEvent) (s : State), s.inputs = .request q :: rest →
    step s = exec (decode q) { s with inputs := rest })
  ∧ ∀ (nbits w : Nat) (i : Instr) (s : State), decodeTableWord nbits w = some i →
    step (s.withFetchWord nbits w) = exec i s

/-- R214, R220 and log 16 (the model's choice of one step): with nothing asked of it the block idles. -/
def Obligations.IdleBlockStaysAsItIs : Prop :=
  ∀ s : State, s.inputs = [] → step s = .next s

/-- R30 (the spec's own D30; log 6): a status reading returns the six fields and has no effect on the
block or the trace; read while a request is in progress it returns the values from before it. -/
def Obligations.StatusPortReadsWithoutSideEffect : Prop :=
  ∀ (rest : List HostEvent) (s : State),
    (s.inputs = .readStatus :: rest →
      step s = .next { s with inputs := rest, statusReads := s.statusReads ++ [s.block] })
    ∧ ∀ q : RequestWord, s.inputs = .requestPolled q :: rest →
      ∃ t u : State, step s = .next t ∧ exec (decode q) { s with inputs := rest } = .next u
        ∧ t = { u with statusReads := s.statusReads ++ [s.block] }

/-- R20, R220 (the spec's own D28): the reset values, both of the state after reset and of the block after
a reset event, which records no action, starts an empty trace and keeps the configuration. That the
earlier trace is kept beside it is the model's choice, log 4. -/
def Obligations.ResetRestoresTheResetValues : Prop :=
  State.reset.block = { mode := .off, addr := 0#16, lineClk := false, lineData := false,
                        lineVpp := false, lineEn := false }
  ∧ State.reset.trace = [] ∧ State.reset.responses = [] ∧ State.reset.params = Config.P
  ∧ ∀ (rest : List HostEvent) (s : State), s.inputs = .reset :: rest →
      step s = .next { s with
        inputs := rest
        block := State.reset.block
        trace := []
        pastTraces := s.pastTraces ++ [s.trace] }

/-- R221 (the spec's own D29; logs 4 and 7): a reset after `k` actions of a request: of the request's
actions the first `k` were performed and no more, no response is given, the block takes its reset state,
and the environment has answered as many levels as those actions read. -/
def Obligations.ResetCutsARequestShort : Prop :=
  ∀ (q : RequestWord) (k : Nat) (rest : List HostEvent) (s : State),
    s.inputs = .requestCut q k :: rest →
    ∃ (t : State) (acts : List Action), exec (decode q) { s with inputs := rest } = .next t
      ∧ t.trace = s.trace ++ acts
      ∧ step s = .next { s with
          inputs := rest
          block := State.reset.block
          trace := []
          pastTraces := s.pastTraces ++ [s.trace ++ acts.take k]
          answers := s.answers.drop (readCount (acts.take k))
          draws := s.draws + readCount (acts.take k) }

/-- R203, R208, R34 (with the spec's own D34, D35): every step goes on, and it never writes the
configuration. That a step takes exactly one act from the list of the client's acts, and none where the
list is empty, is the model's choice, logs 2 and 16. -/
def Obligations.EveryStepGoesOn : Prop :=
  ∀ s : State, ∃ t : State, step s = .next t ∧ t.inputs = s.inputs.tail ∧ t.params = s.params

/-- R11, R181 (the spec's own D34; log 3): in every step, each reading that is recorded draws exactly one
of the environment's answers, in order, and nothing else draws one; that holds whatever the count of draws
was. -/
def Obligations.EveryReadingDrawsOneAnswer : Prop :=
  ∀ s t : State, step s = .next t → ∃ n : Nat,
    readings t = readings s + n ∧ t.draws = s.draws + n ∧ t.answers = s.answers.drop n

/-! ### The invariant -/

/-- R23, R27, R29, R214 ([derived] in the spec): every step keeps the clock low between requests, the power
lines as MODE says, and each line at the level last driven. -/
def Obligations.StepKeepsTheInvariant : Prop :=
  ∀ s t : State, s.Inv → step s = .next t → t.Inv

/-- The state after reset meets the invariant (R220). -/
def Obligations.ResetMeetsTheInvariant : Prop := State.reset.Inv

/-! ### Encodings -/

/-- R76 to R78, R81 (the spec's own D2, D3, D27): encoding and decoding agree: every request comes back
from its word with every operand, and every word comes back from its request with the ignored bits
written 0. -/
def Obligations.DecodeAndEncodeAgree : Prop :=
  (∀ i : Instr, decode (encode i) = i)
  ∧ ∀ q : RequestWord, encode (decode q) =
      if opField q = 1#3 ∨ opField q = 5#3 then q else q &&& 0x70000#19

/-- R78 (the spec's own D27): the operand bits of a request that takes none make no difference. -/
def Obligations.IgnoredOperandBitsChangeNothing : Prop :=
  ∀ (q : RequestWord) (w : Operand), opField q ≠ 1#3 → opField q ≠ 5#3 →
    decode ((q &&& 0x70000#19) ||| w.setWidth 19) = decode q

/-- R77, R81 (the spec's own D3): words written out from the spec's table decode to their requests. -/
def Obligations.WrittenWordsDecodeAsTheTableSays : Prop :=
  decode 0b0000000000000000000#19 = .enter
  ∧ decode 0b0010011111100110100#19 = .loadProgram 0x3F34#16
  ∧ decode 0b0100000000000000000#19 = .incrementAddr
  ∧ decode 0b0110000000000000000#19 = .beginProgram
  ∧ decode 0b1000000000000000000#19 = .bulkErase
  ∧ decode 0b1010011111111110001#19 = .loadConfig 0x3FF1#16
  ∧ decode 0b1100000000000000000#19 = .readProgram
  ∧ decode 0b1110000000000000000#19 = .exit

/-- R76, R80 and log 8: every number below 2^19 decodes to a request, and every other one is rejected by
name. -/
def Obligations.ExactlyTheRequestWordsDecode : Prop :=
  ∀ n : Nat, (n < 2 ^ 19 → decodeNumber n = .ok (decode (BitVec.ofNat 19 n)))
    ∧ (2 ^ 19 ≤ n → decodeNumber n = .error .notARequestWord)

/-! ### Assembly -/

/-- R81 (the spec's own D32; log 11 for the blank between name and operand): the line of text that stands
for a request assembles to its word, for every operand; so does a load with its operand as a decimal or a
hexadecimal numeral of any length, and one above 0xFFFF is refused; and `;` starts a comment, whatever
stands before and after it. -/
def Obligations.EveryRequestAssemblesToItsWord : Prop :=
  (∀ i : Instr, assembleText (lineOf i) = .ok [encode i])
  ∧ (∀ (hex : Bool) (ds : List Nat), ds ≠ [] → (∀ d ∈ ds, d < baseOf hex) →
      (numeralValue hex ds ≤ 0xFFFF →
        assembleText (spelling .loadProgram ++ ' ' :: numeralText hex ds)
            = .ok [operandWord 1 (numeralValue hex ds)]
        ∧ assembleText (spelling .loadConfig ++ ' ' :: numeralText hex ds)
            = .ok [operandWord 5 (numeralValue hex ds)])
      ∧ (0xFFFF < numeralValue hex ds →
        assembleText (spelling .loadProgram ++ ' ' :: numeralText hex ds) = .error .operandTooLarge
        ∧ assembleText (spelling .loadConfig ++ ' ' :: numeralText hex ds) = .error .operandTooLarge))
  ∧ ∀ text comment : List Char, assembleText (text ++ ';' :: comment) = assembleText text

/-- R81 (the spec's own D32): an assembler refuses an operand above 0xFFFF, a missing operand and an
operand that does not belong, and accepts every other line. -/
def Obligations.AssemblerRefusesIllFormedLines : Prop :=
  ∀ (name : AsmName) (n : Nat),
    (name.takesOperand = true →
      assemble ⟨name, none⟩ = .error .missingOperand
      ∧ (0xFFFF < n → assemble ⟨name, some n⟩ = .error .operandTooLarge)
      ∧ (n ≤ 0xFFFF → ∃ ws, assemble ⟨name, some n⟩ = .ok ws ∧ ws ≠ []))
    ∧ (name.takesOperand = false →
      assemble ⟨name, some n⟩ = .error .unexpectedOperand
      ∧ ∃ ws, assemble ⟨name, none⟩ = .ok ws ∧ ws ≠ [])

/-- R82 (the spec's own D32): the four macros assemble to the words of their expansions. -/
def Obligations.MacrosExpandToPlainRequests : Prop :=
  assemble ⟨.eraseAll, none⟩ = .ok [0x13FFF#19, 0x40000#19]
  ∧ ∀ n : Nat, n ≤ 0xFFFF →
    assemble ⟨.programWord, some n⟩ = .ok [operandWord 1 n, 0x30000#19]
    ∧ assemble ⟨.programVerify, some n⟩ = .ok [operandWord 1 n, 0x30000#19, 0x60000#19]
    ∧ assemble ⟨.seekConfigWord, some n⟩ =
        .ok [operandWord 5 n, 0x20000#19, 0x20000#19, 0x20000#19, 0x20000#19, 0x20000#19, 0x20000#19,
          0x20000#19]
end

