-- ==== Sys2Proof/Laws/Observe.lean ====
section
/-! SUPPORT. How the observations of a list of actions split at a point of it, and what they say of one
bit cell. -/

namespace Sys2Proof.Machine

theorem levelAfter_append (l : Line) (v : Level) (xs ys : List Action) :
    levelAfter l v (xs ++ ys) = levelAfter l (levelAfter l v xs) ys := by
  induction xs generalizing v with
  | nil => rfl
  | cons a xs ih => cases a <;> simp [levelAfter, ih]

theorem readCount_append (xs ys : List Action) :
    readCount (xs ++ ys) = readCount xs + readCount ys := by
  induction xs with
  | nil => simp [readCount]
  | cons a xs ih => cases a <;> simp [readCount, ih]; omega

@[simp] theorem delaySum_nil : delaySum [] = 0 := rfl

@[simp] theorem delaySum_cons (a : Action) (xs : List Action) :
    delaySum (a :: xs) = a.minUs + delaySum xs := by simp [delaySum]

theorem delaySum_append (xs ys : List Action) :
    delaySum (xs ++ ys) = delaySum xs + delaySum ys := by simp [delaySum]

theorem risingEdges_append (v : Level) (xs ys : List Action) :
    risingEdges v (xs ++ ys) = risingEdges v xs + risingEdges (levelAfter .clk v xs) ys := by
  fun_induction risingEdges v xs <;> (simp_all [risingEdges, levelAfter]; try omega)

theorem fallingEdges_append (v : Level) (xs ys : List Action) :
    fallingEdges v (xs ++ ys) = fallingEdges v xs + fallingEdges (levelAfter .clk v xs) ys := by
  fun_induction fallingEdges v xs <;> (simp_all [fallingEdges, levelAfter]; try omega)

theorem clockedBits_append (c d : Level) (xs ys : List Action) :
    clockedBits c d (xs ++ ys) = clockedBits c d xs
      ++ clockedBits (levelAfter .clk c xs) (levelAfter .data d xs) ys := by
  fun_induction clockedBits c d xs <;> simp_all [clockedBits, levelAfter]

theorem dataDrives_append (c : Level) (xs ys : List Action) :
    dataDrives c (xs ++ ys) = dataDrives c xs ++ dataDrives (levelAfter .clk c xs) ys := by
  fun_induction dataDrives c xs <;> simp_all [dataDrives, levelAfter]

/-- Sending bits clocks out exactly those bits. -/
theorem clockedBits_cells (p : Params) (d : Level) (bs : List Level) :
    clockedBits false d (bs.flatMap (cellOut p)) = bs := by
  induction bs generalizing d with
  | nil => rfl
  | cons b bs ih => simp [cellOut, clockedBits, ih]

/-- Sending bits leaves the clock low. -/
theorem clockLevel_cells (p : Params) (bs : List Level) :
    levelAfter .clk false (bs.flatMap (cellOut p)) = false := by
  induction bs with
  | nil => rfl
  | cons b bs ih => simp [cellOut, levelAfter, ih]

/-- Sending bits leaves the data line at the last of them. -/
theorem dataLevel_cells (p : Params) (d : Level) (bs : List Level) :
    levelAfter .data d (bs.flatMap (cellOut p)) = bs.getLastD d := by
  induction bs generalizing d with
  | nil => rfl
  | cons b bs ih => rw [List.getLastD_cons, ← ih]; simp [cellOut, levelAfter]

/-- Sending bits gives one clock pulse a bit and drives `DATA` while the clock is high only. -/
theorem pulses_cells (p : Params) (bs : List Level) :
    risingEdges false (bs.flatMap (cellOut p)) = bs.length
    ∧ fallingEdges false (bs.flatMap (cellOut p)) = bs.length
    ∧ dataDrives false (bs.flatMap (cellOut p)) = bs.map (fun b => (true, b)) := by
  induction bs with
  | nil => exact ⟨rfl, rfl, rfl⟩
  | cons b bs ih => simp [cellOut, risingEdges, fallingEdges, dataDrives, ih]

/-- The actions of sending bits, counted by kind, and their delays. -/
theorem counts_cells (p : Params) (bs : List Level) :
    (bs.flatMap (cellOut p)).length = 5 * bs.length
    ∧ setCount (bs.flatMap (cellOut p)) = 3 * bs.length
    ∧ readCount (bs.flatMap (cellOut p)) = 0
    ∧ delayCount (bs.flatMap (cellOut p)) = 2 * bs.length
    ∧ delaySum (bs.flatMap (cellOut p)) = bs.length * (p.tSetUs + p.tHoldUs) := by
  induction bs with
  | nil => simp [setCount, readCount, delayCount]
  | cons b bs ih =>
    obtain ⟨h1, h2, h3, h4, h5⟩ := ih
    simp only [List.flatMap_cons, List.length_append, List.length_cons, delaySum_append, h1, h5]
    simp only [cellOut, List.cons_append, List.nil_append, setCount, readCount, delayCount, h2, h3,
      h4, delaySum_cons, delaySum_nil, Action.minUs, List.length_cons, List.length_nil, Nat.add_mul]
    refine ⟨?_, ?_, trivial, ?_, ?_⟩ <;> omega

/-- `n` bit cells that receive. -/
theorem received_cells (p : Params) (d : Level) (n : Nat) :
    clockedBits false d (List.replicate n (cellIn p)).flatten = List.replicate n d
    ∧ risingEdges false (List.replicate n (cellIn p)).flatten = n
    ∧ fallingEdges false (List.replicate n (cellIn p)).flatten = n
    ∧ dataDrives false (List.replicate n (cellIn p)).flatten = []
    ∧ levelAfter .clk false (List.replicate n (cellIn p)).flatten = false
    ∧ levelAfter .data d (List.replicate n (cellIn p)).flatten = d := by
  induction n with
  | zero => exact ⟨rfl, rfl, rfl, rfl, rfl, rfl⟩
  | succ n ih =>
    obtain ⟨h1, h2, h3, h4, h5, h6⟩ := ih
    simp only [List.replicate_succ, List.flatten_cons]
    generalize (List.replicate n (cellIn p)).flatten = acts at *
    simp [cellIn, clockedBits, risingEdges, fallingEdges, dataDrives, levelAfter, h1, h2, h3, h4, h5,
      h6]

/-- The actions of receiving bits, counted by kind, and their delays. -/
theorem counts_received (p : Params) (n : Nat) :
    (List.replicate n (cellIn p)).flatten.length = 5 * n
    ∧ setCount (List.replicate n (cellIn p)).flatten = 2 * n
    ∧ readCount (List.replicate n (cellIn p)).flatten = n
    ∧ delayCount (List.replicate n (cellIn p)).flatten = 2 * n
    ∧ delaySum (List.replicate n (cellIn p)).flatten = n * (p.tSetUs + p.tHoldUs) := by
  induction n with
  | zero => exact ⟨rfl, rfl, rfl, rfl, (Nat.zero_mul _).symm⟩
  | succ n ih =>
    obtain ⟨h1, h2, h3, h4, h5⟩ := ih
    simp only [List.replicate_succ, List.flatten_cons]
    generalize (List.replicate n (cellIn p)).flatten = acts at *
    simp only [cellIn, List.cons_append, List.nil_append, setCount, readCount, delayCount, h1, h2, h3,
      h4, h5, delaySum_cons, Action.minUs, List.length_cons, Nat.add_mul]
    refine ⟨?_, ?_, trivial, ?_, ?_⟩ <;> omega

end Sys2Proof.Machine
end

