-- ==== Sys2Proof/Laws/Operands.lean ====
section
/-! SUPPORT. Bit by bit, what the frame helpers compute. -/

namespace Sys2Proof.Machine

@[simp] theorem bitsLsbFirst_length {n : Nat} (v : BitVec n) : (bitsLsbFirst v).length = n := by
  simp [bitsLsbFirst]

theorem bitsLsbFirst_getElem? {n : Nat} (v : BitVec n) {i : Nat} (h : i < n) :
    (bitsLsbFirst v)[i]? = some (v.getLsbD i) := by
  simp [bitsLsbFirst, h]

/-- Which bits of 0x3FFF are set. -/
theorem mask_getLsbD {i : Nat} : (0x3FFF#16).getLsbD i = decide (i < 14) := by
  rcases Nat.lt_or_ge i 16 with h | h
  · revert h; revert i; decide
  · rw [BitVec.getLsbD_of_ge _ _ h]; simp; omega

/-- The bits of a sent frame: padding, payload, padding. -/
theorem frameOf_getLsbD (w : Operand) (i : Nat) :
    (frameOf w).getLsbD i = (decide (1 ≤ i ∧ i < 15) && w.getLsbD (i - 1)) := by
  simp only [frameOf, BitVec.getLsbD_shiftLeft, BitVec.getLsbD_and, mask_getLsbD]
  rcases Nat.lt_or_ge i 1 with h | h
  · simp [h]
  · by_cases h2 : i < 15
    · have : i - 1 < 14 := by omega
      have : i < 16 := by omega
      have : ¬ i < 1 := by omega
      simp_all
    · have h3 : ¬ i - 1 < 14 := by omega
      have h4 : ¬ (1 ≤ i ∧ i < 15) := by omega
      simp only [decide_eq_false h3, decide_eq_false h4, Bool.and_false, Bool.false_and]

/-- The bits of a received payload: those of the frame, one place up. -/
theorem payloadOf_getLsbD (raw : Frame) (i : Nat) :
    (payloadOf raw).getLsbD i = (decide (i < 14) && raw.getLsbD (i + 1)) := by
  simp only [payloadOf, BitVec.getLsbD_setWidth, BitVec.getLsbD_and, BitVec.getLsbD_ushiftRight,
    mask_getLsbD, Nat.add_comm 1 i]
  by_cases h : i < 14 <;> simp [h]

/-- Assigning a bit of a frame changes that bit alone. -/
theorem setFrameBit_getLsbD (raw : Frame) (i : Nat) (b : Level) (j : Nat) (h : j < 16) :
    (setFrameBit raw i b).getLsbD j = if j = i then b else raw.getLsbD j := by
  have one : (1#16 <<< i).getLsbD j = decide (j = i) := by
    simp only [BitVec.getLsbD_shiftLeft, BitVec.getLsbD_one, h, decide_true, Bool.true_and]
    by_cases h1 : j < i
    · simp [h1]; omega
    · simp [h1]; omega
  cases b
  · simp only [setFrameBit, Bool.false_eq_true, if_false, BitVec.getLsbD_and, BitVec.getLsbD_not,
      one, h]
    by_cases e : j = i <;> simp [e]
  · simp only [setFrameBit, if_true, BitVec.getLsbD_or, one]
    by_cases e : j = i <;> simp [e]

end Sys2Proof.Machine
end

