-- ==== Sys2Proof/Laws/State.lean ====
section
/-! SUPPORT. One lemma per field for each operation that writes the state. -/

namespace Sys2Proof.Machine

section Record
variable (a : Action) (s : State)
@[simp] theorem record_block : (record a s).block = s.block := rfl
@[simp] theorem record_params : (record a s).params = s.params := rfl
@[simp] theorem record_trace : (record a s).trace = s.trace ++ [a] := rfl
@[simp] theorem record_pastTraces : (record a s).pastTraces = s.pastTraces := rfl
@[simp] theorem record_responses : (record a s).responses = s.responses := rfl
@[simp] theorem record_statusReads : (record a s).statusReads = s.statusReads := rfl
@[simp] theorem record_inputs : (record a s).inputs = s.inputs := rfl
@[simp] theorem record_answers : (record a s).answers = s.answers := rfl
@[simp] theorem record_draws : (record a s).draws = s.draws := rfl
end Record

section Block
variable (b : Block) (l : Line) (v : Level)
@[simp] theorem Block.setLine_mode : (b.setLine l v).mode = b.mode := by cases l <;> rfl
@[simp] theorem Block.setLine_addr : (b.setLine l v).addr = b.addr := by cases l <;> rfl
@[simp] theorem Block.setLine_line_same : (b.setLine l v).line l = v := by cases l <;> rfl
theorem Block.setLine_line (l' : Line) :
    (b.setLine l v).line l' = if l = l' then v else b.line l' := by
  cases l <;> cases l' <;> rfl
end Block

section Lines
variable (l : Line) (v : Level) (n : Nat) (s : State)
@[simp] theorem setLine_block : (setLine l v s).block = s.block.setLine l v := rfl
@[simp] theorem setLine_params : (setLine l v s).params = s.params := rfl
@[simp] theorem setLine_trace : (setLine l v s).trace = s.trace ++ [.set l v] := rfl
@[simp] theorem setLine_answers : (setLine l v s).answers = s.answers := rfl
@[simp] theorem setLine_draws : (setLine l v s).draws = s.draws := rfl
@[simp] theorem delay_block : (delay n s).block = s.block := rfl
@[simp] theorem delay_params : (delay n s).params = s.params := rfl
@[simp] theorem delay_trace : (delay n s).trace = s.trace ++ [.delay n] := rfl
@[simp] theorem delay_answers : (delay n s).answers = s.answers := rfl
@[simp] theorem delay_draws : (delay n s).draws = s.draws := rfl
end Lines

section Mode
variable (m : Mode) (a : Addr) (s : State)
@[simp] theorem setMode_mode : (setMode m s).block.mode = m := rfl
@[simp] theorem setMode_addr : (setMode m s).block.addr = s.block.addr := rfl
@[simp] theorem setMode_params : (setMode m s).params = s.params := rfl
@[simp] theorem setMode_trace : (setMode m s).trace = s.trace := rfl
@[simp] theorem setAddr_addr : (setAddr a s).block.addr = a := rfl
@[simp] theorem setAddr_mode : (setAddr a s).block.mode = s.block.mode := rfl
@[simp] theorem setAddr_params : (setAddr a s).params = s.params := rfl
@[simp] theorem setAddr_trace : (setAddr a s).trace = s.trace := rfl
end Mode

section Host
variable (s : State) (acts : List Action) (q : RequestWord)
@[simp] theorem readStatus_block : (readStatus s).block = s.block := rfl
@[simp] theorem readStatus_params : (readStatus s).params = s.params := rfl
@[simp] theorem readStatus_trace : (readStatus s).trace = s.trace := rfl
@[simp] theorem readStatus_pastTraces : (readStatus s).pastTraces = s.pastTraces := rfl
@[simp] theorem readStatus_draws : (readStatus s).draws = s.draws := rfl
@[simp] theorem resetAfter_block : (resetAfter acts s).block = Block.reset := rfl
@[simp] theorem resetAfter_params : (resetAfter acts s).params = s.params := rfl
@[simp] theorem resetAfter_trace : (resetAfter acts s).trace = [] := rfl
@[simp] theorem resetAfter_responses : (resetAfter acts s).responses = s.responses := rfl
@[simp] theorem presentRequest_inputs :
    (presentRequest q s).inputs = .request q :: s.inputs := rfl
end Host

end Sys2Proof.Machine
end

