-- ==== Sys2Proof/Laws/Ops.lean ====
section
/-! SUPPORT. One lemma per shared operation: the whole state it leaves, in terms of the state it starts
from. -/

namespace Sys2Proof.Machine

theorem raiseNotEntered_eq (s : State) :
    raiseNotEntered s = .next { s with responses := s.responses ++ [.err .notEntered] } := rfl

theorem whenEntered_off (body : State → Result) {s : State} (h : s.block.mode = .off) :
    whenEntered body s = raiseNotEntered s := by
  simp [whenEntered, h]

theorem whenEntered_entered (body : State → Result) {s : State} (h : s.block.mode ≠ .off) :
    whenEntered body s = body s := by
  cases hm : s.block.mode <;> simp_all [whenEntered]

theorem bitOut_eq (b : Level) (s : State) :
    bitOut b s = { s with
      block := { s.block with lineClk := false, lineData := b }
      trace := s.trace ++ cellOut s.params.p b } := by
  simp [bitOut, setLine, delay, record, Block.setLine, cellOut]

/-- Sending at least one bit: the clock ends low, the data line at the last bit. -/
theorem sendBits_eq (bs : List Level) (b : Level) (s : State) :
    sendBits (bs ++ [b]) s = { s with
      block := { s.block with lineClk := false, lineData := b }
      trace := s.trace ++ (bs ++ [b]).flatMap (cellOut s.params.p) } := by
  induction bs generalizing s with
  | nil => simp [sendBits, bitOut_eq]
  | cons c cs ih => simp [sendBits, ih, bitOut_eq]

theorem sendCommand_eq (c : Command) (s : State) :
    sendCommand c s = { s with
      block := { s.block with lineClk := false, lineData := c.getLsbD 5 }
      trace := s.trace ++ (bitsLsbFirst c).flatMap (cellOut s.params.p) } := by
  have h : bitsLsbFirst c = (List.range 5).map c.getLsbD ++ [c.getLsbD 5] := by
    simp [bitsLsbFirst, List.range_succ]
  rw [sendCommand, h, sendBits_eq]

theorem sendData_eq (w : Operand) (s : State) :
    sendData w s = { s with
      block := { s.block with lineClk := false, lineData := false }
      trace := s.trace ++ (bitsLsbFirst (frameOf w)).flatMap (cellOut s.params.p) } := by
  have h : bitsLsbFirst (frameOf w) = (List.range 15).map (frameOf w).getLsbD ++ [false] := by
    have h15 : (frameOf w).getLsbD 15 = false := by rw [frameOf_getLsbD]; rfl
    rw [bitsLsbFirst, List.range_succ, List.map_append, List.map_singleton, h15]
  rw [sendData, h, sendBits_eq]

theorem bitIn_eq (s : State) :
    bitIn s = (upcomingLevel s 0, { s with
      block   := { s.block with lineClk := false }
      trace   := s.trace ++ cellIn s.params.p
      answers := s.answers.tail
      draws   := s.draws + 1 }) := by
  simp [bitIn, readLine, setLine, delay, record, Block.setLine, cellIn, upcomingLevel]

/-- Receiving bits changes the clock, the trace and the environment's answers. -/
theorem receiveBits_state (n i : Nat) (raw : Frame) (s : State) :
    (receiveBits n i raw s).2 = { s with
      block   := { s.block with lineClk := if n = 0 then s.block.lineClk else false }
      trace   := s.trace ++ (List.replicate n (cellIn s.params.p)).flatten
      answers := s.answers.drop n
      draws   := s.draws + n } := by
  induction n generalizing i raw s with
  | zero => simp [receiveBits]
  | succ n ih =>
    simp only [receiveBits, ih, bitIn_eq]
    simp [List.replicate_succ, Nat.add_comm, Nat.add_left_comm]

/-- The levels ahead of a state one reading later. -/
theorem upcomingLevel_bitIn (s : State) (k : Nat) :
    upcomingLevel (bitIn s).2 k = upcomingLevel s (k + 1) := by
  rw [bitIn_eq]
  simp [upcomingLevel, List.getElem?_tail, Nat.add_comm 1 k, Nat.add_assoc]

/-- The bits received are the levels ahead, in order. -/
theorem receiveBits_getLsbD (n i : Nat) (raw : Frame) (s : State) (j : Nat) (h : j < 16) :
    (receiveBits n i raw s).1.getLsbD j =
      if i ≤ j ∧ j < i + n then upcomingLevel s (j - i) else raw.getLsbD j := by
  induction n generalizing i raw s with
  | zero =>
    have : ¬ (i ≤ j ∧ j < i + 0) := by omega
    rw [if_neg this]; rfl
  | succ n ih =>
    simp only [receiveBits, ih, upcomingLevel_bitIn, setFrameBit_getLsbD _ _ _ _ h]
    by_cases e : j = i
    · subst e
      have h1 : ¬ (j + 1 ≤ j ∧ j < j + 1 + n) := by omega
      have h2 : j ≤ j ∧ j < j + (n + 1) := by omega
      rw [if_neg h1, if_pos h2, if_pos rfl, bitIn_eq, Nat.sub_self]
    · by_cases h1 : i + 1 ≤ j ∧ j < i + 1 + n
      · have h2 : i ≤ j ∧ j < i + (n + 1) := by omega
        have h3 : j - (i + 1) + 1 = j - i := by omega
        rw [if_pos h1, if_pos h2, h3]
      · have h2 : ¬ (i ≤ j ∧ j < i + (n + 1)) := by omega
        rw [if_neg h1, if_neg h2, if_neg e]

theorem upcomingLevel_congr {s t : State} (ha : s.answers = t.answers) (hd : s.draws = t.draws)
    (k : Nat) : upcomingLevel s k = upcomingLevel t k := by
  simp [upcomingLevel, ha, hd]

/-- The state after `ReceiveData`: `DATA` stays driven high. -/
theorem receiveData_state (s : State) :
    (receiveData s).2 = { s with
      block   := { s.block with lineClk := false, lineData := true }
      trace   := s.trace ++ ([.set .data true, .delay s.params.p.tCmdDataUs]
                   ++ (List.replicate 16 (cellIn s.params.p)).flatten)
      answers := s.answers.drop 16
      draws   := s.draws + 16 } := by
  simp only [receiveData, receiveBits_state]
  simp [setLine, delay, record, Block.setLine]

/-- The value of `ReceiveData`: the levels answered, less the first and the last. -/
theorem receiveData_value (s : State) (i : Nat) :
    (receiveData s).1.getLsbD i = (decide (i < 14) && upcomingLevel s (i + 1)) := by
  simp only [receiveData, payloadOf_getLsbD]
  by_cases h : i < 14
  · rw [receiveBits_getLsbD _ _ _ _ _ (by omega)]
    have h1 : 0 ≤ i + 1 ∧ i + 1 < 0 + 16 := by omega
    simp only [h1, and_self, if_true, Nat.sub_zero]
    exact congrArg _ (upcomingLevel_congr rfl rfl _)
  · simp [h]

theorem lowerLines_eq (s : State) :
    lowerLines s = { s with
      block := { s.block with lineClk := false, lineData := false, lineVpp := false, lineEn := false }
      trace := s.trace ++
        [.set .clk false, .set .data false, .set .vpp false, .set .en false] } := by
  simp [lowerLines, setLine, record, Block.setLine]

theorem raiseLine_eq (l : Line) (us : Nat) (s : State) :
    raiseLine l us s = { s with
      block := s.block.setLine l true
      trace := s.trace ++ [.set l true, .delay us] } := by
  simp [raiseLine, setLine, delay, record]

end Sys2Proof.Machine
end

