-- ==== Sys2Proof/Laws/PerInstr.lean ====
section
/-! SUPPORT. The family TableRow: the word of each request has the fixed bits of its row in
spec/opcode_table.json (`word & mask = match`) and the operand the assembler writes. -/

namespace Sys2Proof.Laws.TableRow

/-- The `match` column of spec/opcode_table.json. -/
def rowMatch : Instr → RequestWord
  | .enter         => 0x00000#19
  | .loadProgram _ => 0x10000#19
  | .incrementAddr => 0x20000#19
  | .beginProgram  => 0x30000#19
  | .bulkErase     => 0x40000#19
  | .loadConfig _  => 0x50000#19
  | .readProgram   => 0x60000#19
  | .exit          => 0x70000#19

def Statement (i : Instr) : Prop :=
  encode i &&& 0x70000#19 = rowMatch i ∧ operandField (encode i) = operandBits i

/-- A 16-bit operand stands below the `op` field. -/
theorem operand_below (w : Operand) :
    (w.setWidth 19 : BitVec 19) &&& 0x70000#19 = 0#19 := by
  apply BitVec.eq_of_toNat_eq
  have h : w.toNat < 2 ^ 16 := w.isLt
  simp only [BitVec.toNat_and, BitVec.toNat_setWidth]
  rw [Nat.mod_eq_of_lt (by omega)]
  apply Nat.eq_of_testBit_eq
  intro i
  rcases Nat.lt_or_ge i 16 with hi | hi
  · have : Nat.testBit (BitVec.toNat 0x70000#19) i = false := by revert hi; revert i; decide
    rw [Nat.testBit_and, this, Bool.and_false]; simp
  · have : w.toNat.testBit i = false :=
      Nat.testBit_lt_two_pow (Nat.lt_of_lt_of_le h (Nat.pow_le_pow_right (by omega) hi))
    simp [Nat.testBit_and, this]

theorem ofOperand (op : BitVec 3) (w : Operand) (m : RequestWord)
    (h : (op.setWidth 19 <<< 16 : BitVec 19) &&& 0x70000#19 = m)
    (hz : ((op.setWidth 19 <<< 16 : BitVec 19)).extractLsb' 0 16 = 0#16) :
    ((op.setWidth 19 <<< 16 ||| w.setWidth 19 : BitVec 19) &&& 0x70000#19 = m)
      ∧ operandField (op.setWidth 19 <<< 16 ||| w.setWidth 19) = w := by
  refine ⟨?_, ?_⟩
  · rw [BitVec.and_comm, BitVec.and_or_distrib_left, BitVec.and_comm, h, BitVec.and_comm,
      operand_below, BitVec.or_zero]
  · rw [operandField, BitVec.extractLsb'_or, hz, BitVec.zero_or]
    ext i hi
    have : i < 19 := by omega
    simp [← BitVec.getLsbD_eq_getElem, hi, this]

theorem enter : Statement .enter := ⟨by decide, by decide⟩
theorem loadProgram (w : Operand) : Statement (.loadProgram w) :=
  ofOperand 1#3 w 0x10000#19 (by decide) (by decide)
theorem incrementAddr : Statement .incrementAddr := ⟨by decide, by decide⟩
theorem beginProgram : Statement .beginProgram := ⟨by decide, by decide⟩
theorem bulkErase : Statement .bulkErase := ⟨by decide, by decide⟩
theorem loadConfig (w : Operand) : Statement (.loadConfig w) :=
  ofOperand 5#3 w 0x50000#19 (by decide) (by decide)
theorem readProgram : Statement .readProgram := ⟨by decide, by decide⟩
theorem exit : Statement .exit := ⟨by decide, by decide⟩

end Sys2Proof.Laws.TableRow
end

