-- ==== Sys2Proof/Tests/Slice0.lean ====
section
/-! SUPPORT. The model's own tests. Expected results come from spec/95_test_vectors.md, whose vector each
test names, or from the rule it names. Then, for every statement that has hypotheses, a witness that
meets them. -/

namespace Sys2Proof.Tests

open Sys2Proof.Machine Sys2Proof.Manual

/-! ### Small states -/

/-- The test configuration P0 (95 section 3). -/
def cfg0 : Configuration := { p := Params.p0 }

/-- P0 with the alternate code 0x18 and the enable line raised first. -/
def cfgAlt : Configuration :=
  { p := { Params.p0 with beginProgramCmd := 0x18#6, raiseOrder := .enableFirst } }

/-- A state of the block with the given configuration, nothing asked and nothing done. -/
def at0 (cfg : Configuration) (b : Block) : State :=
  { State.reset with params := cfg, block := b }

def offBlock : Block := ⟨.off, 0#16, false, false, false, false⟩
def progBlock (a : Addr) : Block := ⟨.prog, a, false, false, true, true⟩
def configBlock (a : Addr) : Block := ⟨.config, a, false, true, true, true⟩

def sOff : State := at0 cfg0 offBlock
def sProg : State := at0 cfg0 (progBlock 0#16)
def sConfig : State := at0 cfg0 (configBlock 0x2007#16)

/-- The 0s and 1s of a vector. -/
def bits (l : List Nat) : List Level := l.map (fun n => n == 1)

def sReading (levels : List Nat) : State := { sProg with answers := bits levels }

def nextOf : Result → Option State
  | .next t    => some t
  | .fault _   => none
  | .refused _ => none

def blockOf (r : Result) : Option Block := (nextOf r).map State.block
def traceOf (r : Result) : Option (List Action) := (nextOf r).map State.trace
def responsesOf (r : Result) : Option (List ResponseWord) :=
  (nextOf r).map (fun t => t.responses.map Response.word)
def wireOf (r : Result) : Option (List Level) :=
  (nextOf r).map (fun t => clockedBits false false t.trace)

/-! ### Well-formedness: each check refuses an ill-formed term -/

theorem test_wf_p0 : Params.p0.wellFormed = true := by decide
theorem test_illformed_command : ({ Params.p0 with beginProgramCmd := 0x09#6 }).wellFormed = false := by
  decide
/-- 95 section 2.5: 99999 is refused for both variants, 100000 for HIGH_VOLTAGE. -/
theorem test_illformed_settle_low : ({ Params.p0 with tSettleUs := 99999 }).wellFormed = false := by
  decide
theorem test_illformed_settle_high :
    ({ Params.p0 with entryVariant := .highVoltage }).wellFormed = false := by decide
/-- BP3 -/
theorem test_illformed_oneShot : ({ Params.p0 with tProgUs := 2499 }).wellFormed = false := by decide
/-- BP4 -/
theorem test_illformed_programVerify :
    ({ Params.p0 with progCycleKind := .programVerify }).wellFormed = false := by decide
/-- BE2 -/
theorem test_illformed_erase :
    Configuration.build { Params.p0 with tEraseUs := 5999 } = none := by decide
theorem test_illformed_line_large : (⟨.loadProgram, some 0x10000⟩ : AsmLine).wellFormed = false := by
  decide
theorem test_illformed_line_missing : (⟨.loadConfig, none⟩ : AsmLine).wellFormed = false := by decide
theorem test_illformed_line_extra : (⟨.enter, some 0⟩ : AsmLine).wellFormed = false := by decide
theorem test_wf_line_largest : (⟨.loadProgram, some 0xFFFF⟩ : AsmLine).wellFormed = true := by decide

/-! ### Decoding: words written out bit by bit from R76 and R77 -/

theorem test_decode_enter : decode 0b000_0000000000000000#19 = .enter := by decide
theorem test_decode_loadProgram : decode 0b001_0011111100110100#19 = .loadProgram 0x3F34#16 := by decide
theorem test_decode_incrementAddr : decode 0b010_0000000000000000#19 = .incrementAddr := by decide
theorem test_decode_beginProgram : decode 0b011_0000000000000000#19 = .beginProgram := by decide
theorem test_decode_bulkErase : decode 0b100_0000000000000000#19 = .bulkErase := by decide
theorem test_decode_loadConfig : decode 0b101_0011111111110001#19 = .loadConfig 0x3FF1#16 := by decide
theorem test_decode_readProgram : decode 0b110_0000000000000000#19 = .readProgram := by decide
theorem test_decode_exit : decode 0b111_0000000000000000#19 = .exit := by decide
/-- 95 section 2.10: 0x2FFFF behaves as 0x20000. -/
theorem test_decode_ignored_operand : decode 0x2FFFF#19 = .incrementAddr := by decide
theorem test_decode_no_request_word : decodeNumber 0x80000 = .error .notARequestWord := by decide
theorem test_encode_loadConfig : encode (.loadConfig 0x3FF1#16) = 0x53FF1#19 := by decide
theorem test_table_word : decodeTableWord 24 0x13F34 = some (.loadProgram 0x3F34#16) := by decide

/-! ### Frames (95 sections 2.2, 2.3) and response words -/

theorem test_frame_S1 : frameOf 0x3FFF#16 = 0x7FFE#16 := by decide
theorem test_frame_bit14_dropped : frameOf 0x5678#16 = 0x2CF0#16 := by decide
theorem test_payload_padding_high : payloadOf 0xA469#16 = 0x1234#14 := by decide
theorem test_payload_stop_padding : payloadOf 0x8000#16 = 0x0000#14 := by decide
theorem test_response_error_word : (Response.err .notEntered).word = 0x4000#16 := by decide
theorem test_config_word_address : configWordAddr = 0x2007#16 := by decide

/-! ### Requests -/

/-- EN1 -/
theorem test_enter_voltage_first : traceOf (exec .enter sOff) = some
    [.set .clk false, .set .data false, .set .vpp false, .set .en false, .delay 100000,
     .set .vpp true, .delay 100, .set .en true, .delay 100] := by decide
/-- EN3, with the raise order of EN2 -/
theorem test_enter_from_config_enable_first :
    (nextOf (exec .enter (at0 cfgAlt (configBlock 0x2007#16)))).map
      (fun t => (t.block, t.trace.drop 5)) = some (progBlock 0#16,
        [.set .en true, .delay 100, .set .vpp true, .delay 100]) := by decide
/-- EX1: ADDR is kept. -/
theorem test_exit_keeps_addr :
    blockOf (exec .exit (at0 cfg0 (progBlock 3#16))) = some ⟨.off, 3#16, false, false, false, false⟩ := by
  decide
/-- EX3 -/
theorem test_exit_from_off : traceOf (exec .exit sOff) = some
    [.set .clk false, .set .data false, .set .vpp false, .set .en false] := by decide
/-- LP1 -/
theorem test_loadProgram_wire : wireOf (exec (.loadProgram 0x3F34#16) sProg) = some
    (bits [0,1,0,0,0,0, 0,0,0,1,0,1,1,0,0,1,1,1,1,1,1,0]) := by decide +kernel
/-- LP3: in CONFIG the mode and the cursor stay, and DATA ends low. -/
theorem test_loadProgram_in_config : blockOf (exec (.loadProgram 0x3FF1#16) sConfig) =
    some ⟨.config, 0x2007#16, false, false, true, true⟩ := by decide
/-- LC1 -/
theorem test_loadConfig : (nextOf (exec (.loadConfig 0x3FF1#16) (at0 cfg0 (progBlock 5#16)))).map
    (fun t => (t.block, clockedBits false false t.trace, t.trace.length)) =
    some (⟨.config, 0x2000#16, false, false, true, true⟩,
      bits [0,0,0,0,0,0, 0,1,0,0,0,1,1,1,1,1,1,1,1,1,1,0], 112) := by decide +kernel
/-- LC2 -/
theorem test_loadConfig_in_config : blockOf (exec (.loadConfig 0#16) sConfig) =
    some ⟨.config, 0x2000#16, false, false, true, true⟩ := by decide
/-- 95 section 2.4, all 31 actions under P0 -/
theorem test_incrementAddr_expanded : traceOf (exec .incrementAddr sProg) = some
    [.set .clk true, .set .data false, .delay 1, .set .clk false, .delay 1,
     .set .clk true, .set .data true, .delay 1, .set .clk false, .delay 1,
     .set .clk true, .set .data true, .delay 1, .set .clk false, .delay 1,
     .set .clk true, .set .data false, .delay 1, .set .clk false, .delay 1,
     .set .clk true, .set .data false, .delay 1, .set .clk false, .delay 1,
     .set .clk true, .set .data false, .delay 1, .set .clk false, .delay 1,
     .delay 1] := by decide
/-- IN4 -/
theorem test_incrementAddr_wraps :
    blockOf (exec .incrementAddr (at0 cfg0 (configBlock 0xFFFF#16))) =
      some ⟨.config, 0#16, false, false, true, true⟩ := by decide
/-- BP1, and the closing delay of P0 -/
theorem test_beginProgram : (nextOf (exec .beginProgram sProg)).map
    (fun t => (clockedBits false false t.trace, t.trace.getLast?)) =
    some (bits [0,0,0,1,0,0], some (.delay 2500)) := by decide
/-- BP2 -/
theorem test_beginProgram_alternate :
    wireOf (exec .beginProgram (at0 cfgAlt (progBlock 0#16))) = some (bits [0,0,0,1,1,0]) := by decide
/-- BE1 -/
theorem test_bulkErase : (nextOf (exec .bulkErase sProg)).map
    (fun t => (clockedBits false false t.trace, t.trace.getLast?, t.trace.length)) =
    some (bits [1,0,0,1,0,0], some (.delay 6000), 31) := by decide
/-- BULK_ERASE changes neither MODE nor ADDR. -/
theorem test_bulkErase_block : blockOf (exec .bulkErase sConfig) =
    some ⟨.config, 0x2007#16, false, false, true, true⟩ := by decide
/-- RD4: the padding levels are high and do not matter. -/
theorem test_readProgram_padding :
    responsesOf (exec .readProgram (sReading [1,0,0,1,0,1,1,0,0,0,1,0,0,1,0,1])) = some [0x1234#16] := by
  decide
/-- RD1: 113 actions, DATA left high, the answers used up. -/
theorem test_readProgram_shape :
    (nextOf (exec .readProgram (sReading [0,0,0,1,0,1,1,0,0,1,1,1,1,1,1,0]))).map
      (fun t => (t.block, t.trace.length, readCount t.trace, t.answers, t.responses)) =
    some (⟨.prog, 0#16, false, true, true, true⟩, 113, 16, [], [.okValue 0x3F34#14]) := by decide +kernel
/-- 95 section 2.9 -/
theorem test_fault_leaves_the_block : (nextOf (exec (.loadConfig 0x3FF1#16) sOff)).map
    (fun t => (t.block, t.trace, t.responses)) = some (offBlock, [], [.err .notEntered]) := by decide
theorem test_fault_read_word : responsesOf (exec .readProgram sOff) = some [0x4000#16] := by decide

/-! ### Steps -/

theorem test_step_takes_the_request :
    (nextOf (step { sOff with inputs := [.request 0x00000#19, .reset] })).map
      (fun t => (t.block, t.inputs)) = some (progBlock 0#16, [.reset]) := by decide
theorem test_step_fetch_word :
    blockOf (step (sProg.withFetchWord 24 0x20000)) = some ⟨.prog, 1#16, false, false, true, true⟩ := by
  decide
theorem test_step_after_reset_fetch_word :
    responsesOf (step (State.reset.withFetchWord 24 0x60000)) = some [0x4000#16] := by decide
/-- R221: two actions of INCREMENT_ADDR, then reset. -/
theorem test_step_cut : (nextOf (step { sProg with inputs := [.requestCut 0x20000#19 2] })).map
    (fun t => (t.block, t.trace, t.pastTraces, t.responses)) =
    some (offBlock, [], [[.set .clk true, .set .data false]], []) := by decide
/-- R30: while LOAD_CONFIG is in progress the port shows the values from before it. -/
theorem test_step_polled :
    (nextOf (step { sProg with inputs := [.requestPolled 0x50000#19] })).map
      (fun t => (t.block.mode, t.statusReads)) = some (.config, [progBlock 0#16]) := by decide

/-! ### Assembly (R81) -/

theorem test_asm_loadProgram :
    assembleText ['L','O','A','D','_','P','R','O','G','R','A','M',' ','0','x','3','F','3','4',' ',';','i'] =
      .ok [0x13F34#19] := by decide
theorem test_asm_decimal :
    assembleText ['L','O','A','D','_','C','O','N','F','I','G',' ','6','5','5','3','6'] =
      .error .operandTooLarge := by decide
theorem test_asm_lower_case : assembleText ['e','x','i','t'] = .error .unknownName := by decide
theorem test_asm_eraseAll : assembleText ['E','R','A','S','E','_','A','L','L'] =
    .ok [0x13FFF#19, 0x40000#19] := by decide
/-- X1: 31 requests. -/
theorem test_session_length :
    (session true [0x0100#16, 0x2805#16, 0x0008#16, 0x3FFF#16] 0x3FF1#16 0x3FF1#16).length = 31 := by
  decide
/-- R143, C10: with the verification of program words off, the configuration word alone is read back. -/
theorem test_session_reads_configuration_word :
    session false [0x0100#16] 0x3FF1#16 0x3FF1#16 =
      [.enter, .loadProgram 0x3FFF#16, .bulkErase, .loadProgram 0x0100#16, .beginProgram, .incrementAddr,
       .loadConfig 0x3FF1#16, .incrementAddr, .incrementAddr, .incrementAddr, .incrementAddr,
       .incrementAddr, .incrementAddr, .incrementAddr,
       .loadProgram 0x3FF1#16, .beginProgram, .readProgram, .exit] := by decide
/-- X2: the session fails at the third read: 15 requests. -/
theorem test_failed_session_length :
    (failedSession 14 true [0x0100#16, 0x2805#16, 0x0008#16, 0x3FFF#16] 0x3FF1#16 0x3FF1#16).length = 15
    ∧ ((session true [0x0100#16, 0x2805#16, 0x0008#16, 0x3FFF#16] 0x3FF1#16 0x3FF1#16)[13]?
        = some .readProgram) := by decide
/-- S3: the sentinel is skipped. -/
theorem test_sentinel : imageWord true 0xFFFF#16 = [.incrementAddr] := by decide

/-! ### Witnesses -/

/-- Both modes in which command-carrying requests proceed. -/
theorem entered_prog : Entered sProg := by decide
theorem entered_config : Entered sConfig := by decide

theorem completes (i : Instr) (s : State) (h : (nextOf (exec i s)).isSome = true) :
    ∃ t, exec i s = .next t := by
  cases hx : exec i s with
  | next t    => exact ⟨t, rfl⟩
  | fault r   => simp [hx, nextOf] at h
  | refused r => simp [hx, nextOf] at h

theorem witness_LoadProgramSendsItsFrame : Entered sProg ∧ Entered sConfig :=
  ⟨entered_prog, entered_config⟩
theorem witness_LoadConfigMovesToTheConfigurationRegion : Entered sProg ∧ Entered sConfig :=
  ⟨entered_prog, entered_config⟩
/-- At the wrap of ADDR. -/
theorem witness_IncrementAddrAdvancesTheShadowAddress :
    Entered (at0 cfg0 (configBlock 0xFFFF#16)) := by decide
/-- With either code. -/
theorem witness_BeginProgramSendsTheConfiguredCode :
    Entered sProg ∧ Entered (at0 cfgAlt (progBlock 0#16)) := by decide
theorem witness_BulkEraseSendsItsCode : Entered sProg := entered_prog
theorem witness_ReadProgramReturnsTheLevelsAnswered : Entered sProg ∧ (0 < 14 ∧ 13 < 14) :=
  ⟨entered_prog, by decide⟩
theorem witness_CommandsBeforeEntryRaiseNotEntered :
    sOff.block.mode = .off ∧ Instr.readProgram ≠ .enter ∧ Instr.readProgram ≠ .exit := by decide
/-- Each kind of response has a request that gives it; a read sees its first and its last payload bit. -/
theorem witness_ResponseWordsHoldStatusAndValue :
    traps .bulkErase sOff.block.mode = true ∧ traps .bulkErase sProg.block.mode = false
    ∧ traps .readProgram sOff.block.mode = true ∧ traps .readProgram sProg.block.mode = false
    ∧ Instr.bulkErase ≠ .readProgram ∧ 0 < 14 ∧ 13 < 14 := by decide
theorem witness_ModeTransitionTable : traps .bulkErase sOff.block.mode = true := by decide
theorem witness_ConfigurationRegionIsLeftOnlyByEnter :
    (sConfig.block.mode = .config ∧ .enter ∉ [Instr.loadConfig 0#16, .exit, .incrementAddr])
    ∧ (∃ t, exec .incrementAddr sConfig = .next t) ∧ Instr.incrementAddr ≠ .enter
    ∧ ∀ w, Instr.incrementAddr ≠ .loadConfig w :=
  ⟨by decide, completes _ _ (by decide), by decide, fun _ => by simp⟩
theorem witness_ConfigurationWordIsReachedBySeekMacro : Entered sProg := entered_prog
theorem witness_ExitMayBeRepeated :
    ClockLow sOff ∧ PowerAgrees sOff ∧ sOff.block.mode = .off :=
  ⟨rfl, ⟨rfl, rfl, rfl⟩, rfl⟩
/-- The first and the last bit of a field. -/
theorem witness_FieldsTravelLeastSignificantBitFirst :
    sProg.block.lineClk = false ∧ 0 < 16 ∧ 15 < 16 := by decide
/-- Two operands that differ in bits 15 and 14 alone. -/
theorem witness_SentFrameIsTheMaskedOperandShifted : Entered sProg ∧ sProg.block.lineClk = false
    ∧ (∀ k : Fin 14, (0xFFFF#16).getLsbD k = (0x3FFF#16).getLsbD k) := by decide
/-- The last bit cell of each format. -/
theorem witness_WireTransactionsFollowTheirFormat :
    (wireCommand .incrementAddr = some .incrementAddr ∧ 5 < WireCommand.incrementAddr.format.cells)
    ∧ (wireCommand (.loadProgram 0#16) = some .loadProgram ∧ 21 < WireCommand.loadProgram.format.cells)
    ∧ (wireCommand .readProgram = some .readProgram ∧ 21 < WireCommand.readProgram.format.cells)
    ∧ Entered sProg ∧ ClockLow sProg := ⟨by decide, by decide, by decide, entered_prog, rfl⟩
theorem witness_OnlyListedCommandCodesAreEmitted :
    ClockLow sProg ∧ (∃ t, exec .beginProgram sProg = .next t) ∧ ∃ t, exec .exit sProg = .next t :=
  ⟨rfl, completes _ _ (by decide), completes _ _ (by decide)⟩
theorem witness_OneClockPulsePerBitCell : Entered sConfig ∧ ClockLow sConfig := ⟨entered_config, rfl⟩
theorem witness_DataIsDrivenWhileTheClockIsHigh :
    wireCommand .readProgram = some .readProgram ∧ wireCommand .bulkErase = some .bulkErase
    ∧ Entered sProg ∧ ClockLow sProg := ⟨rfl, rfl, entered_prog, rfl⟩
theorem witness_ActionsDependOnlyOnEntryAndConfiguration :
    sProg.params = sConfig.params ∧ (sProg.block.mode = .off ↔ sConfig.block.mode = .off)
    ∧ sProg ≠ sConfig := ⟨rfl, by decide, fun h => by
      have := congrArg (fun s => s.block.mode) h
      exact absurd this (by decide)⟩
/-- Answers that differ in the two padding levels alone. -/
theorem witness_PaddingLevelsNeverAffectARead :
    Entered (sReading [0,1,0,0,0,0,0,0,0,0,0,0,0,0,1,0])
    ∧ Entered (sReading [1,1,0,0,0,0,0,0,0,0,0,0,0,0,1,1])
    ∧ ∀ k, 1 ≤ k → k ≤ 14 → upcomingLevel (sReading [0,1,0,0,0,0,0,0,0,0,0,0,0,0,1,0]) k
        = upcomingLevel (sReading [1,1,0,0,0,0,0,0,0,0,0,0,0,0,1,1]) k :=
  ⟨by decide, by decide, fun k h1 h2 => by interval_cases k <;> rfl⟩
theorem witness_EveryReadValueIsPossible : Entered sConfig := entered_config
theorem witness_LoadsTruncateSilently : Entered sProg := entered_prog
/-- Each of the six conditions at its boundary. -/
theorem witness_IllFormedConfigurationsAreRefused :
    Params.p0.wellFormed = true ∧ Params.p0.tSettleUs = 100000 ∧ Params.p0.tProgUs = 2500
    ∧ Params.p0.tEraseUs = 6000
    ∧ ({ Params.p0 with
          entryVariant := .highVoltage, tSettleUs := 1000000
          progCycleKind := .programVerify, tProgUs := 6000 }).wellFormed = true := by decide
theorem witness_EnterSettlesWithEveryLineLow :
    sOff.params.p.entryVariant = .lowVoltage ∧
    ({ p := { Params.p0 with entryVariant := .highVoltage, tSettleUs := 1000000 } } :
      Configuration).p.entryVariant = .highVoltage := by decide
theorem witness_ProgramAndErasePulsesMeetTheirMinimums :
    Entered sProg ∧ sProg.params.p.progCycleKind = .oneShot ∧
    ({ p := { Params.p0 with progCycleKind := .programVerify, tProgUs := 6000 } } :
      Configuration).p.progCycleKind = .programVerify := by decide
theorem witness_EveryDelayEmittedIsConfigured :
    ∃ t, exec .bulkErase sProg = .next t ∧ .delay 6000 ∈ emitted sProg t := by
  obtain ⟨t, h⟩ := completes .bulkErase sProg (by decide)
  refine ⟨t, h, ?_⟩
  have : (nextOf (exec .bulkErase sProg)).map (fun t => decide (.delay 6000 ∈ emitted sProg t))
      = some true := by decide
  rw [h] at this
  simpa [nextOf] using this
/-- EXIT, all of it at time 7. -/
theorem witness_ARequestLastsAtLeastItsDelays :
    ∃ t, traps .exit sProg.block.mode = false ∧ exec .exit sProg = .next t
      ∧ ([(.set .clk false, 7), (.set .data false, 7), (.set .vpp false, 7), (.set .en false, 7)] :
          List (Action × Nat)).map Prod.fst = emitted sProg t
      ∧ honoursDelays 7 7 [(.set .clk false, 7), (.set .data false, 7), (.set .vpp false, 7),
          (.set .en false, 7)] := by
  refine ⟨_, rfl, rfl, rfl, ?_⟩
  simp [honoursDelays, Action.minUs]
theorem witness_RepeatedRequestsAreSentAgain :
    wireCommand .incrementAddr = some .incrementAddr ∧ Entered sProg := ⟨rfl, entered_prog⟩
theorem witness_VerifyReadsAfterTheProgramPulse : Entered sProg := entered_prog
theorem witness_EveryImageWordAdvancesTheCursorByOne : Entered sProg ∧ ClockLow sProg :=
  ⟨entered_prog, rfl⟩
/-- The first session state and the last before EXIT. -/
theorem witness_SessionStatesShowInMode : sOff.block.mode = .off
    ∧ issuedIn true [0x0100#16] 0#16 0#16 .idle = some []
    ∧ ((issuedIn true [0x0100#16] 0#16 0#16 .configWritten).map List.length) = some 18 := by decide
theorem witness_StepRunsTheDecodedRequest :
    (presentRequest 0x70000#19 sProg).inputs = .request 0x70000#19 :: []
    ∧ decodeTableWord 24 0x70000 = some .exit := by decide
theorem witness_IdleBlockStaysAsItIs : State.reset.inputs = [] := rfl
theorem witness_StatusPortReadsWithoutSideEffect :
    ({ sProg with inputs := [.readStatus] }).inputs = .readStatus :: []
    ∧ ({ sProg with inputs := [.requestPolled 0x50000#19] }).inputs = .requestPolled 0x50000#19 :: [] :=
  ⟨rfl, rfl⟩
theorem witness_ResetRestoresTheResetValues :
    ({ sConfig with inputs := [.reset] }).inputs = .reset :: [] := rfl
/-- No action, and more than there are. -/
theorem witness_ResetCutsARequestShort :
    ({ sProg with inputs := [.requestCut 0x60000#19 0] }).inputs = .requestCut 0x60000#19 0 :: []
    ∧ ({ sProg with inputs := [.requestCut 0x60000#19 114] }).inputs
        = .requestCut 0x60000#19 114 :: [] := ⟨rfl, rfl⟩
/-- A step that reads: a cut READ_PROGRAM of which one reading was performed. -/
theorem witness_EveryReadingDrawsOneAnswer :
    (nextOf (step { sReading [1, 0] with inputs := [.requestCut 0x60000#19 35] })).map
      (fun t => (readings t, t.answers)) = some (1, [false]) := by decide +kernel
theorem witness_StepKeepsTheInvariant : sOff.Inv ∧ step sOff = .next sOff :=
  ⟨⟨rfl, ⟨rfl, rfl, rfl⟩, fun l => by cases l <;> rfl⟩, rfl⟩
theorem witness_IgnoredOperandBitsChangeNothing :
    opField 0x2FFFF#19 ≠ 1#3 ∧ opField 0x2FFFF#19 ≠ 5#3 := by decide
/-- The last request word and the first number that is none. -/
theorem witness_ExactlyTheRequestWordsDecode : 0x7FFFF < 2 ^ 19 ∧ 2 ^ 19 ≤ 0x80000 := by decide
/-- The largest operand and the first refused one, in both bases. -/
theorem witness_EveryRequestAssemblesToItsWord :
    numeralValue false [6, 5, 5, 3, 5] = 0xFFFF ∧ numeralValue true [15, 15, 15, 15] = 0xFFFF
    ∧ numeralValue false [6, 5, 5, 3, 6] = 0x10000 ∧ numeralValue true [1, 0, 0, 0, 0] = 0x10000
    ∧ (∀ d ∈ [6, 5, 5, 3, 6], d < baseOf false) ∧ (∀ d ∈ [15, 15, 15, 15], d < baseOf true) := by decide
theorem witness_AssemblerRefusesIllFormedLines :
    AsmName.loadProgram.takesOperand = true ∧ AsmName.exit.takesOperand = false
    ∧ 0xFFFF < 0x10000 ∧ 0xFFFF ≤ 0xFFFF := by decide
theorem witness_MacrosExpandToPlainRequests : 0xFFFF ≤ 0xFFFF := by decide

end Sys2Proof.Tests
end

section
/-! PROOFS. Bit order on the wire (spec/20_memory.md R54). -/

namespace Sys2Proof.Proofs

open Sys2Proof.Machine

theorem emitted_of_trace_eq {s t : State} {acts : List Action} (h : t.trace = s.trace ++ acts) :
    emitted s t = acts := by
  rw [emitted, h, List.drop_left]

theorem emitted_sendCommand (c : Command) (s : State) :
    emitted s (sendCommand c s) = (bitsLsbFirst c).flatMap (cellOut s.params.p) :=
  emitted_of_trace_eq (by rw [sendCommand_eq])

theorem emitted_sendData (w : Operand) (s : State) :
    emitted s (sendData w s) = (bitsLsbFirst (frameOf w)).flatMap (cellOut s.params.p) :=
  emitted_of_trace_eq (by rw [sendData_eq])

/-- The bits on the wire are the command's own, whatever the delays of the configuration. -/
theorem clockedBits_sendCommand (d : Level) (c : Command) (s : State) :
    clockedBits false d (emitted s (sendCommand c s)) = bitsLsbFirst c := by
  rw [emitted_sendCommand, clockedBits_cells]

theorem clockedBits_sendData (d : Level) (w : Operand) (s : State) :
    clockedBits false d (emitted s (sendData w s)) = bitsLsbFirst (frameOf w) := by
  rw [emitted_sendData, clockedBits_cells]

/-- Bit `k` of the frame received is the `k`-th level answered from its start. -/
theorem receiveBits_frame_getLsbD (s : State) {k : Nat} (hk : k < 16) :
    (receiveBits 16 0 0#16 s).1.getLsbD k = upcomingLevel s k := by
  have hin : 0 ≤ k ∧ k < 0 + 16 := by omega
  rw [receiveBits_getLsbD 16 0 0#16 s k hk, if_pos hin, Nat.sub_zero]

/-- Settles O16: what the clock carries out is the field's bits from bit 0 on, and the bits received are
placed from bit 0 on. -/
theorem fieldsTravelLeastSignificantBitFirst :
    Obligations.FieldsTravelLeastSignificantBitFirst := by
  intro s _
  refine ⟨fun c => ?command, fun w k hk => ?sentFrame, fun k hk => ?receivedFrame⟩
  case command => rw [clockedBits_sendCommand]; rfl
  case sentFrame => rw [clockedBits_sendData, bitsLsbFirst_getElem? _ hk]
  case receivedFrame => exact receiveBits_frame_getLsbD s hk

end Sys2Proof.Proofs
end

section
/-! PROOFS. The frame a load sends (spec/30_encoding.md R73). -/

namespace Sys2Proof.Proofs

open Sys2Proof.Machine

/-! ### The frame of an operand -/

theorem frameOf_toNat (w : Operand) : (frameOf w).toNat = 2 * (w.toNat % 2 ^ 14) := by
  have masked : (w &&& 0x3FFF#16).toNat = w.toNat % 2 ^ 14 :=
    Nat.and_two_pow_sub_one_eq_mod w.toNat 14
  rw [frameOf, BitVec.toNat_shiftLeft, masked, Nat.shiftLeft_eq]
  omega

/-- The payload bit `k` of a frame, one place up. -/
theorem frameOf_getLsbD_succ (w : Operand) {k : Nat} (hk : k < 14) :
    (frameOf w).getLsbD (k + 1) = w.getLsbD k := by
  have inside : 1 ≤ k + 1 ∧ k + 1 < 15 := by omega
  rw [frameOf_getLsbD, decide_eq_true inside, Bool.true_and, Nat.add_sub_cancel]

/-- A frame depends on bits 13 to 0 of its operand alone. -/
theorem frameOf_congr {w w' : Operand} (h : ∀ k, k < 14 → w'.getLsbD k = w.getLsbD k) :
    frameOf w' = frameOf w := by
  refine BitVec.eq_of_getLsbD_eq fun i _ => ?_
  rw [frameOf_getLsbD, frameOf_getLsbD]
  by_cases payload : 1 ≤ i ∧ i < 15
  · rw [h (i - 1) (by omega)]
  · rw [decide_eq_false payload, Bool.false_and, Bool.false_and]

/-! ### The wire part of a load -/

/-- The whole state after the wire part of a load: both serial lines end low. -/
theorem sendLoad_eq (c : WireCommand) (w : Operand) (s : State) :
    sendLoad c w s = { s with
      block := { s.block with lineClk := false, lineData := false }
      trace := s.trace ++ ((bitsLsbFirst (c.code s.params.p)).flatMap (cellOut s.params.p)
        ++ [.delay s.params.p.tCmdDataUs]
        ++ (bitsLsbFirst (frameOf w)).flatMap (cellOut s.params.p)
        ++ [.delay s.params.p.tPostUs]) } := by
  simp [sendLoad, sendCommand_eq, sendData_eq, delay, record]

theorem emitted_sendLoad (c : WireCommand) (w : Operand) (s : State) :
    emitted s (sendLoad c w s) =
      (bitsLsbFirst (c.code s.params.p)).flatMap (cellOut s.params.p)
        ++ [.delay s.params.p.tCmdDataUs]
        ++ (bitsLsbFirst (frameOf w)).flatMap (cellOut s.params.p)
        ++ [.delay s.params.p.tPostUs] :=
  emitted_of_trace_eq (by rw [sendLoad_eq])

/-- A load clocks out its command and then its frame; the two delays clock nothing. -/
theorem clockedBits_sendLoad (d : Level) (c : WireCommand) (w : Operand) (s : State) :
    clockedBits false d (emitted s (sendLoad c w s))
      = bitsLsbFirst (c.code s.params.p) ++ bitsLsbFirst (frameOf w) := by
  simp [emitted_sendLoad, clockedBits_append, clockedBits_cells, clockLevel_cells, clockedBits]

/-- Whatever a load does after its wire part without an action, its frame follows the six command
bits. -/
theorem frame_follows_command (d : Level) {c : WireCommand} {w : Operand} {s t : State}
    (h : t.trace = (sendLoad c w s).trace) :
    (clockedBits false d (emitted s t)).drop 6 = bitsLsbFirst (frameOf w) := by
  have same : emitted s t = emitted s (sendLoad c w s) := by rw [emitted, emitted, h]
  rw [same, clockedBits_sendLoad, List.drop_left' (bitsLsbFirst_length _)]

/-- The operand reaches the wire only through its frame. -/
theorem sendLoad_congr (c : WireCommand) (s : State) {w w' : Operand}
    (h : frameOf w' = frameOf w) : sendLoad c w' s = sendLoad c w s := by
  rw [sendLoad_eq, sendLoad_eq, h]

/-! ### The two load requests in programming mode -/

theorem exec_loadProgram_entered (w : Operand) {s : State} (h : s.block.mode ≠ .off) :
    exec (.loadProgram w) s = respond .ok (sendLoad .loadProgram w s) := by
  rw [exec, execLoadProgram, whenEntered_entered _ h]

theorem exec_loadConfig_entered (w : Operand) {s : State} (h : s.block.mode ≠ .off) :
    exec (.loadConfig w) s
      = respond .ok (setAddr 0x2000#16 (setMode .config (sendLoad .loadConfig w s))) := by
  rw [exec, execLoadConfig, whenEntered_entered _ h]

/-- Settles O19: the frame is read off bit by bit, the load's bit cells are those of the command and of
the frame, and the request depends on its operand through the frame alone. -/
theorem sentFrameIsTheMaskedOperandShifted :
    Obligations.SentFrameIsTheMaskedOperandShifted := by
  intro w s entered _
  refine ⟨frameOf_toNat w, ?firstBit, ?lastBit, fun _ hk => frameOf_getLsbD_succ w hk,
    ⟨_, exec_loadProgram_entered w entered, ?programFrame⟩,
    ⟨_, exec_loadConfig_entered w entered, ?configFrame⟩, fun w' agree => ?sameRequest⟩
  case firstBit => rw [frameOf_getLsbD]; rfl
  case lastBit => rw [frameOf_getLsbD]; rfl
  case programFrame => exact frame_follows_command _ (c := .loadProgram) rfl
  case configFrame => exact frame_follows_command _ (c := .loadConfig) rfl
  case sameRequest =>
    have same : frameOf w' = frameOf w := frameOf_congr agree
    simp only [exec_loadProgram_entered _ entered, exec_loadConfig_entered _ entered,
      sendLoad_congr _ s same, and_self]

end Sys2Proof.Proofs
end

section
/-! PROOFS. The two sending procedures as bit cells (spec/40_serializer.md R102, R103). -/

namespace Sys2Proof.Proofs

open Sys2Proof.Machine Sys2Proof.Manual

/-! ### The delays of bit cells -/

theorem delaysOf_append (xs ys : List Action) :
    delaysOf (xs ++ ys) = delaysOf xs ++ delaysOf ys :=
  List.filterMap_append

theorem delaysOf_cellOut (p : Params) (b : Level) :
    delaysOf (cellOut p b) = [p.tSetUs, p.tHoldUs] := rfl

/-- Each bit sent waits out its set delay and then its hold delay. -/
theorem delaysOf_cells (p : Params) (bs : List Level) :
    delaysOf (bs.flatMap (cellOut p))
      = (List.replicate bs.length [p.tSetUs, p.tHoldUs]).flatten := by
  induction bs with
  | nil => rfl
  | cons b bs ih =>
    rw [List.flatMap_cons, delaysOf_append, delaysOf_cellOut, ih, List.length_cons,
      List.replicate_succ, List.flatten_cons]

/-! ### The command codes -/

theorem beginProgramCmd_cases (cfg : Configuration) :
    cfg.p.beginProgramCmd = 0x08#6 ∨ cfg.p.beginProgramCmd = 0x18#6 := by
  have wf := cfg.wf
  simp only [Params.wellFormed, Bool.and_eq_true, Bool.or_eq_true, beq_iff_eq] at wf
  obtain ⟨⟨⟨code, _⟩, _⟩, _⟩ := wf
  exact code

/-- The five fixed codes are below 0x20, and so are both codes R8 admits for BEGIN_PROGRAM. -/
theorem code_getLsbD_five (cfg : Configuration) (c : WireCommand) :
    (c.code cfg.p).getLsbD 5 = false := by
  cases c
  case beginProgram =>
    rcases beginProgramCmd_cases cfg with code | code <;> simp [WireCommand.code, code]
  all_goals simp [WireCommand.code]

/-! ### The bits of a sent frame -/

/-- Lowest bit first, a frame is laid out as R55 says: padding, payload, padding. -/
theorem bitsLsbFirst_frameOf (w : Operand) : bitsLsbFirst (frameOf w) = frameBits w := by
  have first : (frameOf w).getLsbD 0 = false := by rw [frameOf_getLsbD]; rfl
  have last : (frameOf w).getLsbD 15 = false := by rw [frameOf_getLsbD]; rfl
  have payload : (List.range 14).map (fun k => (frameOf w).getLsbD (k + 1))
      = (List.range 14).map w.getLsbD :=
    List.map_congr_left fun k hk => frameOf_getLsbD_succ w (List.mem_range.mp hk)
  have positions : List.range 16 = [0] ++ (List.range 14).map (· + 1) ++ [15] := rfl
  rw [bitsLsbFirst, positions, List.map_append, List.map_append, List.map_map, List.map_singleton,
    List.map_singleton, first, last, frameBits, ← payload]
  rfl

/-! ### The two procedures -/

/-- Settles O17: the command is sent as its six bit cells, and no code the block sends has bit 5 set. -/
theorem sendCommandIsSixBitCells : Obligations.SendCommandIsSixBitCells := by
  refine ⟨fun c s => ⟨sendCommand_eq c s, ?length, ?delays⟩, code_getLsbD_five⟩
  case length => rw [emitted_sendCommand, (counts_cells _ _).1, bitsLsbFirst_length]
  case delays => rw [emitted_sendCommand, delaysOf_cells, bitsLsbFirst_length]

/-- Settles O18: the frame is sent as its sixteen bit cells, laid out as padding, payload, padding. -/
theorem sendDataIsSixteenBitCells : Obligations.SendDataIsSixteenBitCells := by
  refine ⟨fun w s => ⟨?state, ?length, ?delays, bitsLsbFirst_frameOf w, rfl, ?lastBit⟩, by decide⟩
  case state => rw [sendData_eq, bitsLsbFirst_frameOf, sending]
  case length => rw [emitted_sendData, (counts_cells _ _).1, bitsLsbFirst_length]
  case delays =>
    obtain ⟨_, _, _, delays, _⟩ := counts_cells s.params.p (bitsLsbFirst (frameOf w))
    rw [emitted_sendData, delays, bitsLsbFirst_length]
  case lastBit => rw [frameBits, List.getLast?_append, List.getLast?_singleton]; rfl

end Sys2Proof.Proofs
end

section
/-! PROOFS. Operand bits 15 and 14 never reach the wire (spec/70_reset_and_hazards.md R230). -/

namespace Sys2Proof.Proofs

open Sys2Proof.Machine Sys2Proof.Manual

/-! ### The masked operand -/

theorem masked_getLsbD (w : Operand) (k : Nat) :
    (w &&& 0x3FFF#16).getLsbD k = (decide (k < 14) && w.getLsbD k) := by
  rw [BitVec.getLsbD_and, mask_getLsbD, Bool.and_comm]

theorem frameOf_masked (w : Operand) : frameOf (w &&& 0x3FFF#16) = frameOf w :=
  frameOf_congr fun k hk => by rw [masked_getLsbD, decide_eq_true hk, Bool.true_and]

theorem masked_getLsbD_of_ge (w : Operand) {k : Nat} (hk : 14 ≤ k) :
    (w &&& 0x3FFF#16).getLsbD k = false := by
  rw [masked_getLsbD, decide_eq_false (Nat.not_lt.mpr hk), Bool.false_and]

/-- The mask changes an operand exactly when it has bit 15 or bit 14 to clear. -/
theorem masked_ne_iff (w : Operand) :
    w &&& 0x3FFF#16 ≠ w ↔ (w.getLsbD 15 = true ∨ w.getLsbD 14 = true) := by
  have cleared (k : Nat) (hk : 14 ≤ k) (bit : w.getLsbD k = true) : w &&& 0x3FFF#16 ≠ w :=
    fun same => by rw [← same, masked_getLsbD_of_ge w hk] at bit; exact Bool.false_ne_true bit
  refine ⟨?_, fun high => high.elim (cleared 15 (by decide)) (cleared 14 (by decide))⟩
  contrapose!
  rintro ⟨bit15, bit14⟩
  refine BitVec.eq_of_getLsbD_eq fun k hk => ?_
  rcases Nat.lt_or_ge k 14 with payload | high
  · rw [masked_getLsbD, decide_eq_true payload, Bool.true_and]
  · rw [masked_getLsbD_of_ge w high]
    obtain rfl | rfl : k = 14 ∨ k = 15 := by omega
    · exact (Bool.eq_false_of_not_eq_true bit14).symm
    · exact (Bool.eq_false_of_not_eq_true bit15).symm

theorem payloadOfOperand_setWidth (w : Operand) :
    (payloadOfOperand w).setWidth 16 = w &&& 0x3FFF#16 := by
  refine BitVec.eq_of_getLsbD_eq fun k hk => ?_
  rw [masked_getLsbD, payloadOfOperand, BitVec.getLsbD_setWidth, BitVec.getLsbD_setWidth,
    decide_eq_true hk, Bool.true_and]

theorem readBackMatches_payloadOfOperand (w : Operand) :
    readBackMatches w (payloadOfOperand w) = true :=
  beq_self_eq_true _

/-! ### Reading a frame back -/

/-- Where the environment answers with the frame of an operand, its payload is received. -/
theorem receiveData_of_frameBits {w : Operand} {s : State} (h : s.answers = frameBits w) :
    (receiveData s).1 = payloadOfOperand w := by
  refine BitVec.eq_of_getLsbD_eq fun k hk => ?_
  have level : upcomingLevel s (k + 1) = w.getLsbD k := by
    rw [upcomingLevel, h, ← bitsLsbFirst_frameOf, bitsLsbFirst_getElem? _ (by omega)]
    exact frameOf_getLsbD_succ w hk
  rw [receiveData_value, level, payloadOfOperand, BitVec.getLsbD_setWidth]

/-- In programming mode READ_PROGRAM answers with what it receives after its command. -/
theorem readProgram_responds {s : State} (h : s.block.mode ≠ .off) :
    ∃ t, exec .readProgram s = .next t
      ∧ t.responses = s.responses ++
          [.okValue (receiveData (sendCommand (WireCommand.readProgram.code s.params.p) s)).1] := by
  rw [exec, execReadProgram, whenEntered_entered _ h]
  refine ⟨_, rfl, ?_⟩
  simp [delay, receiveData_state, sendCommand_eq]

theorem readProgram_of_frameBits {w : Operand} {s : State} (entered : s.block.mode ≠ .off)
    (h : s.answers = frameBits w) :
    ∃ t, exec .readProgram s = .next t
      ∧ t.responses = s.responses ++ [.okValue (payloadOfOperand w)] := by
  have value : (receiveData (sendCommand (WireCommand.readProgram.code s.params.p) s)).1
      = payloadOfOperand w := receiveData_of_frameBits (by rw [sendCommand_eq, h])
  rw [← value]
  exact readProgram_responds entered

/-! ### The loads drop the two bits -/

/-- Settles O27: a load depends on its operand through the frame alone, which the mask leaves as it
is; a read of that frame returns the operand's payload, the masked operand. -/
theorem loadsTruncateSilently : Obligations.LoadsTruncateSilently := by
  intro w s entered
  refine ⟨⟨_, exec_loadProgram_entered w entered, ?programResponse, ?programMasked⟩,
    ⟨_, exec_loadConfig_entered w entered, ?configResponse, ?configMasked⟩, ?readBack⟩
  case programResponse => rw [sendLoad_eq]
  case programMasked =>
    rw [exec_loadProgram_entered _ entered, sendLoad_congr _ s (frameOf_masked w)]; rfl
  case configResponse => rw [sendLoad_eq]; rfl
  case configMasked =>
    rw [exec_loadConfig_entered _ entered, sendLoad_congr _ s (frameOf_masked w)]; rfl
  case readBack =>
    obtain ⟨t, reads, response⟩ := readProgram_of_frameBits (w := w)
      (s := { s with answers := frameBits w }) entered rfl
    refine ⟨t, payloadOfOperand w, reads, response, ?mismatch, payloadOfOperand_setWidth w,
      readBackMatches_payloadOfOperand w⟩
    rw [payloadOfOperand_setWidth, masked_ne_iff]

end Sys2Proof.Proofs
end

section
/-! PROOFS. The eight requests one by one: the whole state each leaves (spec/41_entry_exit.md,
spec/42_load_increment.md, spec/43_program_erase.md, spec/44_readback.md, spec/60_exceptions.md). -/

namespace Sys2Proof.Proofs

open Sys2Proof.Machine Sys2Proof.Manual

/-! ### The wire parts, in the spec's own tables -/

/-- Lowest bit first, a code is the "transmitted" column of R71. -/
theorem bitsLsbFirst_code (cfg : Configuration) (c : WireCommand) :
    bitsLsbFirst (c.code cfg.p) = transmitted cfg.p c := by
  cases c
  case beginProgram =>
    rcases beginProgramCmd_cases cfg with code | code <;>
      simp only [WireCommand.code, transmitted, code] <;> decide
  all_goals simp only [WireCommand.code, transmitted]; decide

/-- Sending a command leaves both serial lines low, since bit 5 of every code is 0. -/
theorem sendCommand_code_eq (c : WireCommand) (s : State) :
    sendCommand (c.code s.params.p) s = { s with
      block := { s.block with lineClk := false, lineData := false }
      trace := s.trace ++ sending s.params.p (transmitted s.params.p c) } := by
  rw [sendCommand_eq, code_getLsbD_five, bitsLsbFirst_code, sending]

theorem sendLoad_eq_loadActions (c : WireCommand) (w : Operand) (s : State) :
    sendLoad c w s = { s with
      block := { s.block with lineClk := false, lineData := false }
      trace := s.trace ++ loadActions s.params.p c w } := by
  rw [sendLoad_eq, bitsLsbFirst_code, bitsLsbFirst_frameOf]; rfl

/-- A command, then its closing delay: the wire part of the three requests without a frame. -/
theorem delay_sendCommand_code_eq (n : Nat) (c : WireCommand) (s : State) :
    delay n (sendCommand (c.code s.params.p) s) = { s with
      block := { s.block with lineClk := false, lineData := false }
      trace := s.trace ++ (sending s.params.p (transmitted s.params.p c) ++ [.delay n]) } := by
  simp [sendCommand_code_eq, delay, record]

@[simp] theorem sendCommand_params (c : Command) (s : State) :
    (sendCommand c s).params = s.params := by rw [sendCommand_eq]

/-- The value received depends on the levels ahead alone. -/
theorem receiveData_value_congr {s t : State}
    (h : ∀ k, k < 14 → upcomingLevel s (k + 1) = upcomingLevel t (k + 1)) :
    (receiveData s).1 = (receiveData t).1 := by
  refine BitVec.eq_of_getLsbD_eq fun k hk => ?_
  rw [receiveData_value, receiveData_value, h k hk]

/-- Sending a command draws no answer, so it does not change what a reception yields. -/
theorem receiveData_value_sendCommand (c : Command) (s : State) :
    (receiveData (sendCommand c s)).1 = (receiveData s).1 :=
  receiveData_value_congr fun k _ =>
    upcomingLevel_congr (by rw [sendCommand_eq]) (by rw [sendCommand_eq]) (k + 1)

/-! ### Entry and exit -/

/-- Settles O1: the four lines are lowered, the settle delay passes, and the two raises follow in either
order. -/
theorem enterRunsTheEntrySequence : Obligations.EnterRunsTheEntrySequence := by
  intro s
  cases order : s.params.p.raiseOrder <;>
    simp [exec, execEnter, raiseInOrder, lowerLines_eq, raiseLine_eq, setMode, setAddr, respond, delay,
      record, Block.setLine, after, entryActions, order]

/-- Settles O2. -/
theorem exitLowersEveryLine : Obligations.ExitLowersEveryLine := by
  intro s
  rw [exec, execExit, lowerLines_eq]; rfl

/-! ### The command-carrying requests in programming mode -/

/-- Settles O3. -/
theorem loadProgramSendsItsFrame : Obligations.LoadProgramSendsItsFrame := by
  intro w s entered
  rw [exec_loadProgram_entered w entered, sendLoad_eq_loadActions]; rfl

/-- Settles O4. -/
theorem loadConfigMovesToTheConfigurationRegion :
    Obligations.LoadConfigMovesToTheConfigurationRegion := by
  intro w s entered
  rw [exec_loadConfig_entered w entered, sendLoad_eq_loadActions]; rfl

/-- Adding one to an address wraps at 2^16 (R25, D9). -/
theorem addr_add_one (a : Addr) : a + 1#16 = BitVec.ofNat 16 ((a.toNat + 1) % 2 ^ 16) := by
  apply BitVec.eq_of_toNat_eq
  simp

/-- Settles O5. -/
theorem incrementAddrAdvancesTheShadowAddress :
    Obligations.IncrementAddrAdvancesTheShadowAddress := by
  intro s entered
  rw [exec, execIncrementAddr, whenEntered_entered _ entered, ← addr_add_one]
  simp only [sendCommand_params]
  rw [delay_sendCommand_code_eq]; rfl

/-- Settles O6. -/
theorem beginProgramSendsTheConfiguredCode : Obligations.BeginProgramSendsTheConfiguredCode := by
  intro s entered
  rw [exec, execBeginProgram, whenEntered_entered _ entered]
  simp only [sendCommand_params]
  rw [delay_sendCommand_code_eq]; rfl

/-- Settles O7. -/
theorem bulkEraseSendsItsCode : Obligations.BulkEraseSendsItsCode := by
  intro s entered
  rw [exec, execBulkErase, whenEntered_entered _ entered]
  simp only [sendCommand_params]
  rw [delay_sendCommand_code_eq]; rfl

/-- READ_PROGRAM in programming mode, its value as `ReceiveData` yields it from the levels ahead. -/
theorem exec_readProgram_entered {s : State} (entered : s.block.mode ≠ .off) :
    exec .readProgram s = .next
      { after s { s.block with lineClk := false, lineData := true } (readActions s.params.p)
          (.okValue (receiveData s).1) with
        answers := s.answers.drop 16, draws := s.draws + 16 } := by
  rw [exec, execReadProgram, whenEntered_entered _ entered]
  simp only [receiveData_value_sendCommand, receiveData_state]
  rw [sendCommand_code_eq]
  simp [delay, record, respond, after, readActions]

/-- Settles O8: the value received is the payload part of the sixteen levels ahead. -/
theorem readProgramReturnsTheLevelsAnswered : Obligations.ReadProgramReturnsTheLevelsAnswered := by
  intro s entered
  refine ⟨(receiveData s).1, fun k hk => ?_, exec_readProgram_entered entered⟩
  rw [receiveData_value, decide_eq_true hk, Bool.true_and]

/-! ### The exception -/

/-- Settles O9: each command-carrying request checks MODE before its first action. -/
theorem commandsBeforeEntryRaiseNotEntered : Obligations.CommandsBeforeEntryRaiseNotEntered := by
  intro i s off notEnter notExit
  refine ⟨?_, by decide⟩
  rw [← raiseNotEntered_eq]
  cases i
  case enter => contradiction
  case exit => contradiction
  all_goals
    simp only [exec, execLoadProgram, execIncrementAddr, execBeginProgram, execBulkErase,
      execLoadConfig, execReadProgram, whenEntered_off _ off]

end Sys2Proof.Proofs
end

section
/-! PROOFS. What an onlooker sees of a run of bit cells, sent (`sending`) or received (`receiving`), one
observation a lemma (spec/40_serializer.md R100, R101, R105, R106). -/

namespace Sys2Proof.Proofs

open Sys2Proof.Machine Sys2Proof.Manual

/-- `n` bit cells that receive. -/
def receiving (p : Params) (n : Nat) : List Action := (List.replicate n (cellIn p)).flatten

/-! ### Bit cells that send -/

section Sent
variable (p : Params) (bits : List Level)

@[simp] theorem length_sending : (sending p bits).length = 5 * bits.length :=
  have ⟨h, _, _, _, _⟩ := counts_cells p bits; h

@[simp] theorem setCount_sending : setCount (sending p bits) = 3 * bits.length :=
  have ⟨_, h, _, _, _⟩ := counts_cells p bits; h

@[simp] theorem readCount_sending : readCount (sending p bits) = 0 :=
  have ⟨_, _, h, _, _⟩ := counts_cells p bits; h

@[simp] theorem delayCount_sending : delayCount (sending p bits) = 2 * bits.length :=
  have ⟨_, _, _, h, _⟩ := counts_cells p bits; h

@[simp] theorem delaySum_sending : delaySum (sending p bits) = bits.length * tBit p :=
  have ⟨_, _, _, _, h⟩ := counts_cells p bits; h

@[simp] theorem clockedBits_sending (d : Level) : clockedBits false d (sending p bits) = bits :=
  clockedBits_cells p d bits

@[simp] theorem risingEdges_sending : risingEdges false (sending p bits) = bits.length :=
  have ⟨h, _, _⟩ := pulses_cells p bits; h

@[simp] theorem fallingEdges_sending : fallingEdges false (sending p bits) = bits.length :=
  have ⟨_, h, _⟩ := pulses_cells p bits; h

@[simp] theorem dataDrives_sending :
    dataDrives false (sending p bits) = bits.map (fun b => (true, b)) :=
  have ⟨_, _, h⟩ := pulses_cells p bits; h

@[simp] theorem clkLevel_sending : levelAfter .clk false (sending p bits) = false :=
  clockLevel_cells p bits

/-- Bit cells leave every line but the clock and `DATA` as it was. -/
theorem powerLevel_sending {l : Line} (hclk : l ≠ .clk) (hdata : l ≠ .data) (v : Level) :
    levelAfter l v (sending p bits) = v := by
  induction bits with
  | nil => rfl
  | cons b bits ih =>
    rw [sending, List.flatMap_cons, levelAfter_append, ← sending]
    simpa [cellOut, levelAfter, hclk.symm, hdata.symm] using ih

/-- The delays of bit cells are set and hold delays. -/
theorem delay_mem_sending {n : Nat} (h : .delay n ∈ sending p bits) :
    n = p.tSetUs ∨ n = p.tHoldUs := by
  obtain ⟨b, _, hb⟩ := List.mem_flatMap.mp h
  simpa [cellOut] using hb

end Sent

/-! ### Bit cells that receive -/

section Received
variable (p : Params) (n : Nat)

@[simp] theorem length_receiving : (receiving p n).length = 5 * n :=
  have ⟨h, _, _, _, _⟩ := counts_received p n; h

@[simp] theorem setCount_receiving : setCount (receiving p n) = 2 * n :=
  have ⟨_, h, _, _, _⟩ := counts_received p n; h

@[simp] theorem readCount_receiving : readCount (receiving p n) = n :=
  have ⟨_, _, h, _, _⟩ := counts_received p n; h

@[simp] theorem delayCount_receiving : delayCount (receiving p n) = 2 * n :=
  have ⟨_, _, _, h, _⟩ := counts_received p n; h

@[simp] theorem delaySum_receiving : delaySum (receiving p n) = n * tBit p :=
  have ⟨_, _, _, _, h⟩ := counts_received p n; h

/-- While the block receives, an onlooker clocks out the level at which it holds `DATA`. -/
@[simp] theorem clockedBits_receiving (d : Level) :
    clockedBits false d (receiving p n) = List.replicate n d :=
  have ⟨h, _, _, _, _, _⟩ := received_cells p d n; h

@[simp] theorem risingEdges_receiving : risingEdges false (receiving p n) = n :=
  have ⟨_, h, _, _, _, _⟩ := received_cells p false n; h

@[simp] theorem fallingEdges_receiving : fallingEdges false (receiving p n) = n :=
  have ⟨_, _, h, _, _, _⟩ := received_cells p false n; h

@[simp] theorem dataDrives_receiving : dataDrives false (receiving p n) = [] :=
  have ⟨_, _, _, h, _, _⟩ := received_cells p false n; h

@[simp] theorem clkLevel_receiving : levelAfter .clk false (receiving p n) = false :=
  have ⟨_, _, _, _, h, _⟩ := received_cells p false n; h

/-- Received bit cells leave every line but the clock as it was. -/
theorem level_receiving {l : Line} (hclk : l ≠ .clk) (v : Level) :
    levelAfter l v (receiving p n) = v := by
  induction n with
  | zero => rfl
  | succ n ih =>
    rw [receiving, List.replicate_succ, List.flatten_cons, levelAfter_append, ← receiving]
    simpa [cellIn, levelAfter, hclk.symm] using ih

/-- The delays of received bit cells are set and hold delays. -/
theorem delay_mem_receiving {us : Nat} (h : .delay us ∈ receiving p n) :
    us = p.tSetUs ∨ us = p.tHoldUs := by
  obtain ⟨cell, hcell, hmem⟩ := List.mem_flatten.mp h
  rw [List.eq_of_mem_replicate hcell] at hmem
  simpa [cellIn] using hmem

end Received

/-! ### The lengths of the two fields sent -/

@[simp] theorem length_transmitted (p : Params) (c : WireCommand) :
    (transmitted p c).length = 6 := by
  cases c
  case beginProgram => rw [transmitted]; split <;> rfl
  all_goals rfl

@[simp] theorem length_frameBits (w : Operand) : (frameBits w).length = 16 := by
  simp [frameBits]

/-- Every command ends with a 0, so sending it leaves `DATA` low. -/
@[simp] theorem dataLevel_transmitted (p q : Params) (c : WireCommand) (d : Level) :
    levelAfter .data d (sending p (transmitted q c)) = false := by
  rw [sending, dataLevel_cells]
  cases c
  case beginProgram => rw [transmitted]; split <;> rfl
  all_goals rfl

/-- Every frame ends with padding, so sending it leaves `DATA` low. -/
@[simp] theorem dataLevel_frameBits (p : Params) (w : Operand) (d : Level) :
    levelAfter .data d (sending p (frameBits w)) = false := by
  rw [sending, dataLevel_cells, frameBits, List.getLastD_eq_getLast?, List.getLast?_append]; rfl

end Sys2Proof.Proofs
end

section
/-! PROOFS. What every request does, said once: its actions, its block, its response and its answers
drawn, whatever the state. The later proofs derive from `exec_eq`. -/

namespace Sys2Proof.Proofs

open Sys2Proof.Machine Sys2Proof.Manual

/-! ### Faults -/

theorem traps_eq_true_iff (i : Instr) (m : Mode) :
    traps i m = true ↔ m = .off ∧ i ≠ .enter ∧ i ≠ .exit := by
  cases i <;> cases m <;> simp [traps]

theorem traps_entered (i : Instr) {m : Mode} (h : m ≠ .off) : traps i m = false :=
  Bool.eq_false_iff.mpr fun trap =>
    have ⟨off, _⟩ := (traps_eq_true_iff i m).mp trap
    h off

@[simp] theorem traps_enter (m : Mode) : traps .enter m = false := rfl

@[simp] theorem traps_exit (m : Mode) : traps .exit m = false := rfl

/-! ### The four parts of a request's outcome -/

/-- The actions of a request that does not fault (R120, R125, R140 to R142, R160, R162, R180). -/
def requestActions (p : Params) : Instr → List Action
  | .enter         => entryActions p
  | .loadProgram w => loadActions p .loadProgram w
  | .incrementAddr => sending p (transmitted p .incrementAddr) ++ [.delay p.tPostUs]
  | .beginProgram  => sending p (transmitted p .beginProgram) ++ [.delay p.tProgUs]
  | .bulkErase     => sending p (transmitted p .bulkErase) ++ [.delay p.tEraseUs]
  | .loadConfig w  => loadActions p .loadConfig w
  | .readProgram   => readActions p
  | .exit          => [.set .clk false, .set .data false, .set .vpp false, .set .en false]

/-- The actions a request performs; none where it faults (R202). -/
def performed (i : Instr) (s : State) : List Action :=
  if traps i s.block.mode then [] else requestActions s.params.p i

/-- The six fields after a request that does not fault. -/
def blockServed (i : Instr) (b : Block) : Block :=
  match i with
  | .enter         => ⟨.prog, 0#16, false, false, true, true⟩
  | .loadProgram _ => { b with lineClk := false, lineData := false }
  | .incrementAddr => { b with addr := b.addr + 1#16, lineClk := false, lineData := false }
  | .beginProgram  => { b with lineClk := false, lineData := false }
  | .bulkErase     => { b with lineClk := false, lineData := false }
  | .loadConfig _  =>
    { b with mode := .config, addr := 0x2000#16, lineClk := false, lineData := false }
  | .readProgram   => { b with lineClk := false, lineData := true }
  | .exit          => ⟨.off, b.addr, false, false, false, false⟩

/-- The six fields after a request. -/
def blockAfter (i : Instr) (b : Block) : Block :=
  if traps i b.mode then b else blockServed i b

/-- The response of a request that does not fault. -/
def responseServed (i : Instr) (s : State) : Response :=
  match i with
  | .readProgram => .okValue (receiveData s).1
  | _            => .ok

/-- The response to a request. -/
def responseTo (i : Instr) (s : State) : Response :=
  if traps i s.block.mode then .err .notEntered else responseServed i s

/-- The state after a request: each reading among its actions has drawn one answer. -/
def stateAfter (i : Instr) (s : State) : State :=
  { after s (blockAfter i s.block) (performed i s) (responseTo i s) with
    answers := s.answers.drop (readCount (performed i s))
    draws   := s.draws + readCount (performed i s) }

section StateAfter
variable (i : Instr) (s : State)
@[simp] theorem stateAfter_block : (stateAfter i s).block = blockAfter i s.block := rfl
@[simp] theorem stateAfter_params : (stateAfter i s).params = s.params := rfl
@[simp] theorem stateAfter_trace : (stateAfter i s).trace = s.trace ++ performed i s := rfl
@[simp] theorem stateAfter_pastTraces : (stateAfter i s).pastTraces = s.pastTraces := rfl
@[simp] theorem stateAfter_responses :
    (stateAfter i s).responses = s.responses ++ [responseTo i s] := rfl
@[simp] theorem stateAfter_statusReads : (stateAfter i s).statusReads = s.statusReads := rfl
@[simp] theorem stateAfter_inputs : (stateAfter i s).inputs = s.inputs := rfl
@[simp] theorem stateAfter_answers :
    (stateAfter i s).answers = s.answers.drop (readCount (performed i s)) := rfl
@[simp] theorem stateAfter_draws :
    (stateAfter i s).draws = s.draws + readCount (performed i s) := rfl
@[simp] theorem emitted_stateAfter : emitted s (stateAfter i s) = performed i s :=
  emitted_of_trace_eq (stateAfter_trace i s)
end StateAfter

/-! ### Where a request faults and where it does not -/

section Cases
variable {i : Instr} {s : State}

theorem performed_of_traps (h : traps i s.block.mode = true) : performed i s = [] := if_pos h

theorem performed_served (h : traps i s.block.mode = false) :
    performed i s = requestActions s.params.p i := if_neg (by simp [h])

theorem blockAfter_of_traps {b : Block} (h : traps i b.mode = true) : blockAfter i b = b := if_pos h

theorem blockAfter_served {b : Block} (h : traps i b.mode = false) :
    blockAfter i b = blockServed i b := if_neg (by simp [h])

theorem responseTo_of_traps (h : traps i s.block.mode = true) :
    responseTo i s = .err .notEntered := if_pos h

theorem responseTo_served (h : traps i s.block.mode = false) :
    responseTo i s = responseServed i s := if_neg (by simp [h])

end Cases

/-! ### Readings -/

theorem readActions_eq (p : Params) :
    readActions p = sending p (transmitted p .readProgram) ++ [.set .data true, .delay p.tCmdDataUs]
      ++ receiving p 16 ++ [.delay p.tPostUs] := rfl

/-- READ_PROGRAM reads sixteen times, and no other request reads. -/
theorem readCount_requestActions (p : Params) (i : Instr) :
    readCount (requestActions p i) = if i = .readProgram then 16 else 0 := by
  cases i
  case enter => cases order : p.raiseOrder <;> simp [requestActions, entryActions, order, readCount]
  case readProgram =>
    simp [requestActions, readActions_eq, readCount_append, readCount]
  all_goals simp [requestActions, loadActions, readCount_append, readCount]

/-! ### The outcome of every request -/

/-- A request that does not fault answers the next state, put together from the eight rules. -/
theorem exec_served {i : Instr} {s : State} (h : traps i s.block.mode = false) :
    exec i s = .next
      { after s (blockServed i s.block) (requestActions s.params.p i) (responseServed i s) with
        answers := s.answers.drop (readCount (requestActions s.params.p i))
        draws   := s.draws + readCount (requestActions s.params.p i) } := by
  have entered (notEnter : i ≠ .enter) (notExit : i ≠ .exit) : s.block.mode ≠ .off := fun off =>
    Bool.false_ne_true (h.symm.trans ((traps_eq_true_iff _ _).mpr ⟨off, notEnter, notExit⟩))
  rw [readCount_requestActions]
  cases i
  case enter => exact enterRunsTheEntrySequence s
  case loadProgram w => exact loadProgramSendsItsFrame w s (entered nofun nofun)
  case incrementAddr =>
    rw [blockServed, addr_add_one]
    exact incrementAddrAdvancesTheShadowAddress s (entered nofun nofun)
  case beginProgram => exact beginProgramSendsTheConfiguredCode s (entered nofun nofun)
  case bulkErase => exact bulkEraseSendsItsCode s (entered nofun nofun)
  case loadConfig w => exact loadConfigMovesToTheConfigurationRegion w s (entered nofun nofun)
  case readProgram => exact exec_readProgram_entered (entered nofun nofun)
  case exit => exact exitLowersEveryLine s

/-- Every request in every state answers the next state `stateAfter`. -/
theorem exec_eq (i : Instr) (s : State) : exec i s = .next (stateAfter i s) := by
  cases h : traps i s.block.mode
  case false =>
    rw [exec_served h, stateAfter, blockAfter_served h, performed_served h, responseTo_served h]
  case true =>
    obtain ⟨off, notEnter, notExit⟩ := (traps_eq_true_iff _ _).mp h
    obtain ⟨faults, _⟩ := commandsBeforeEntryRaiseNotEntered i s off notEnter notExit
    rw [faults, stateAfter, blockAfter_of_traps h, performed_of_traps h, responseTo_of_traps h]
    simp [after, readCount]

/-- What a next state answered by `exec` is. -/
theorem eq_stateAfter_of_exec {i : Instr} {s t : State} (h : exec i s = .next t) :
    t = stateAfter i s := by
  rw [exec_eq] at h
  exact (Host.Outcome.next.inj h).symm

end Sys2Proof.Proofs
end

section
/-! PROOFS. Modes, the shadow address and responses of a single request (spec/30_encoding.md R79,
spec/41_entry_exit.md R126, R127, spec/60_exceptions.md R201). -/

namespace Sys2Proof.Proofs

open Sys2Proof.Machine Sys2Proof.Manual

/-! ### MODE and ADDR -/

/-- MODE after a request is R127's, whether it faults or not. -/
@[simp] theorem blockAfter_mode (i : Instr) (b : Block) :
    (blockAfter i b).mode = modeAfter i b.mode := by
  cases i <;> cases h : b.mode <;> simp [blockAfter, blockServed, traps, modeAfter, h]

/-- ADDR after a request is R127's, whether it faults or not. -/
theorem blockAfter_addr (i : Instr) (b : Block) :
    (blockAfter i b).addr.toNat = addrAfter i b.mode b.addr.toNat := by
  cases i <;> cases h : b.mode <;> simp [blockAfter, blockServed, traps, addrAfter, h]

/-- Settles O12. -/
theorem modeTransitionTable : Obligations.ModeTransitionTable := by
  intro i s
  refine ⟨stateAfter i s, exec_eq i s, blockAfter_mode i s.block, blockAfter_addr i s.block,
    fun faults => ⟨?noAction, blockAfter_of_traps faults⟩⟩
  case noAction => rw [emitted_stateAfter, performed_of_traps faults]

/-- Only ENTER leads to PROG from another mode. -/
theorem modeAfter_ne_prog {i : Instr} {m : Mode} (notEnter : i ≠ .enter) (h : m ≠ .prog) :
    modeAfter i m ≠ .prog := by
  cases i <;> cases m <;> simp_all [modeAfter]

/-- Only EXIT leads to OFF from another mode. -/
theorem modeAfter_ne_off {i : Instr} {m : Mode} (notExit : i ≠ .exit) (h : m ≠ .off) :
    modeAfter i m ≠ .off := by
  cases i <;> cases m <;> simp_all [modeAfter]

/-- EXIT leaves a block as it is that is in OFF with every line low. -/
theorem blockServed_exit_of_off {b : Block} (off : b.mode = .off) (clk : b.lineClk = false)
    (data : b.lineData = false) (vpp : b.lineVpp = false) (en : b.lineEn = false) :
    blockServed .exit b = b := by
  cases b; simp_all [blockServed]

/-- Settles O15: EXIT writes constants, and in OFF a state that keeps the invariant has those already. -/
theorem exitMayBeRepeated : Obligations.ExitMayBeRepeated := by
  refine ⟨fun s clkLow power off => ⟨_, exec_eq .exit s, ?sameBlock, by rw [emitted_stateAfter]; rfl⟩,
    fun s => ⟨_, _, exec_eq .exit s, exec_eq .exit _, rfl, ?sameActions⟩⟩
  case sameBlock =>
    rw [PowerAgrees, if_pos off] at power
    obtain ⟨data, vpp, en⟩ := power
    exact blockServed_exit_of_off off clkLow data vpp en
  case sameActions => rw [emitted_stateAfter, emitted_stateAfter]; rfl

/-! ### Responses -/

theorem responseServed_ne_err (i : Instr) (s : State) (c : Cause) : responseServed i s ≠ .err c := by
  cases i <;> simp [responseServed]

theorem responseTo_eq_err_iff (i : Instr) (s : State) :
    responseTo i s = .err .notEntered ↔ traps i s.block.mode = true := by
  cases h : traps i s.block.mode
  case false => simp [responseTo_served h, responseServed_ne_err]
  case true => simp [responseTo_of_traps h]

/-- Settles O10. -/
theorem nothingElseRaisesTheException : Obligations.NothingElseRaisesTheException := fun i s =>
  ⟨stateAfter i s, responseTo i s, exec_eq i s, rfl, responseTo_eq_err_iff i s⟩

/-- A response word bit by bit: the value below the status. -/
theorem word_getLsbD (r : Response) {k : Nat} (hk : k < 16) :
    r.word.getLsbD k = if k < 14 then r.value.getLsbD k else r.status.getLsbD (k - 14) := by
  rw [Response.word, BitVec.getLsbD_or, BitVec.getLsbD_shiftLeft, BitVec.getLsbD_setWidth,
    BitVec.getLsbD_setWidth]
  by_cases low : k < 14
  · simp [low, hk]
  · have beyond : r.value.getLsbD k = false := BitVec.getLsbD_of_ge _ _ (by omega)
    have shifted : k - 14 < 16 := by omega
    simp [low, hk, beyond, shifted]

theorem word_status (r : Response) : r.word.extractLsb' 14 2 = r.status := by
  refine BitVec.eq_of_getLsbD_eq fun k hk => ?_
  have high : ¬ 14 + k < 14 := by omega
  rw [BitVec.getLsbD_extractLsb', word_getLsbD r (by omega), if_neg high, Nat.add_sub_cancel_left,
    decide_eq_true hk, Bool.true_and]

theorem word_value (r : Response) : r.word.extractLsb' 0 14 = r.value := by
  refine BitVec.eq_of_getLsbD_eq fun k hk => ?_
  rw [BitVec.getLsbD_extractLsb', Nat.zero_add, word_getLsbD r (by omega), if_pos hk,
    decide_eq_true hk, Bool.true_and]

theorem responseTo_status (i : Instr) (s : State) :
    (responseTo i s).status = if traps i s.block.mode then 1#2 else 0#2 := by
  cases h : traps i s.block.mode
  case false => rw [responseTo_served h]; cases i <;> rfl
  case true => rw [responseTo_of_traps h]; rfl

/-- `okValue` is the response of a READ_PROGRAM that does not fault, and of nothing else. -/
theorem responseTo_eq_okValue_iff (i : Instr) (s : State) :
    (∃ v, responseTo i s = .okValue v) ↔ i = .readProgram ∧ traps i s.block.mode = false := by
  cases h : traps i s.block.mode
  case false => rw [responseTo_served h]; cases i <;> simp [responseServed]
  case true => simp [responseTo_of_traps h]

theorem responseTo_value_eq_zero {i : Instr} {s : State}
    (h : i ≠ .readProgram ∨ traps i s.block.mode = true) : (responseTo i s).value = 0#14 := by
  cases r : responseTo i s with
  | ok => rfl
  | err c => rfl
  | okValue v =>
    obtain ⟨isRead, served⟩ := (responseTo_eq_okValue_iff i s).mp ⟨v, r⟩
    subst isRead
    simp [served] at h

/-- The word of a value read holds the levels answered after the first. -/
theorem word_readProgram {s : State} (served : traps .readProgram s.block.mode = false) {k : Nat}
    (hk : k < 14) : (responseTo .readProgram s).word.getLsbD k = upcomingLevel s (k + 1) := by
  rw [word_getLsbD _ (by omega), if_pos hk, responseTo_served served, responseServed, Response.value,
    receiveData_value, decide_eq_true hk, Bool.true_and]

/-- Settles O11: status and value are read off the response word, and the response off `responseTo`. -/
theorem responseWordsHoldStatusAndValue : Obligations.ResponseWordsHoldStatusAndValue := by
  refine ⟨fun i s => ⟨stateAfter i s, responseTo i s, exec_eq i s, rfl, word_status _, word_value _,
    ?status, responseTo_eq_okValue_iff i s, ?noValue, ?levels⟩, by decide, ?okValueWord, by decide⟩
  case status => rw [word_status, responseTo_status]
  case noValue => exact fun h => by rw [word_value, responseTo_value_eq_zero h]
  case levels => rintro rfl served k hk; exact word_readProgram served hk
  case okValueWord => intro v; simp [Response.word, Response.status, Response.value]

end Sys2Proof.Proofs
end

section
/-! PROOFS. Sequences of requests and the client's session (spec/20_memory.md R59, R61,
spec/41_entry_exit.md R123, R128, spec/42_load_increment.md R143, R144,
spec/70_reset_and_hazards.md R223). -/

namespace Sys2Proof.Proofs

open Sys2Proof.Machine Sys2Proof.Manual

/-! ### Any sequence of requests -/

/-- The state after a sequence of requests. -/
def runAll : List Instr → State → State
  | [],      s => s
  | i :: is, s => runAll is (stateAfter i s)

/-- The actions of a sequence of requests. -/
def performedBy : List Instr → State → List Action
  | [],      _ => []
  | i :: is, s => performed i s ++ performedBy is (stateAfter i s)

/-- The responses to a sequence of requests. -/
def responsesTo : List Instr → State → List Response
  | [],      _ => []
  | i :: is, s => responseTo i s :: responsesTo is (stateAfter i s)

theorem performAll_eq (is : List Instr) (s : State) : performAll is s = .next (runAll is s) := by
  induction is generalizing s with
  | nil => rfl
  | cons i is ih => rw [performAll, exec_eq]; exact ih _

theorem runAll_append (is js : List Instr) (s : State) :
    runAll (is ++ js) s = runAll js (runAll is s) := by
  induction is generalizing s with
  | nil => rfl
  | cons i is ih => exact ih _

theorem responsesTo_append (is js : List Instr) (s : State) :
    responsesTo (is ++ js) s = responsesTo is s ++ responsesTo js (runAll is s) := by
  induction is generalizing s with
  | nil => rfl
  | cons i is ih => exact congrArg _ (ih _)

section RunAll
variable (is : List Instr) (s : State)

theorem runAll_trace : (runAll is s).trace = s.trace ++ performedBy is s := by
  induction is generalizing s with
  | nil => exact (List.append_nil _).symm
  | cons i is ih => rw [runAll, ih, performedBy, stateAfter_trace, List.append_assoc]

theorem emitted_runAll : emitted s (runAll is s) = performedBy is s :=
  emitted_of_trace_eq (runAll_trace is s)

theorem runAll_responses : (runAll is s).responses = s.responses ++ responsesTo is s := by
  induction is generalizing s with
  | nil => exact (List.append_nil _).symm
  | cons i is ih =>
    rw [runAll, ih, responsesTo, stateAfter_responses, List.append_assoc, List.singleton_append]

theorem length_responsesTo : (responsesTo is s).length = is.length := by
  induction is generalizing s with
  | nil => rfl
  | cons i is ih => rw [responsesTo, List.length_cons, List.length_cons, ih]

/-- What no sequence of requests touches. -/
theorem runAll_frame :
    (runAll is s).params = s.params ∧ (runAll is s).pastTraces = s.pastTraces
    ∧ (runAll is s).statusReads = s.statusReads ∧ (runAll is s).inputs = s.inputs := by
  induction is generalizing s with
  | nil => exact ⟨rfl, rfl, rfl, rfl⟩
  | cons i is ih => exact ih (stateAfter i s)

end RunAll

/-- Settles O35: a sequence runs request by request, and each request appends. -/
theorem requestsAreSerialised : Obligations.RequestsAreSerialised := by
  intro is js s
  refine ⟨runAll is s, runAll js (runAll is s), performedBy is s, performedBy js (runAll is s),
    responsesTo is s, responsesTo js (runAll is s), performAll_eq is s, performAll_eq js _, ?composed,
    runAll_trace is s, ?trace, runAll_responses is s, length_responsesTo is s, ?responses,
    length_responsesTo js _, ?frame⟩
  case composed => rw [performAll_eq, runAll_append]
  case trace => rw [runAll_trace, runAll_trace]
  case responses => rw [runAll_responses, runAll_responses]
  case frame => rw [← runAll_append]; exact runAll_frame (is ++ js) s

/-! ### What a sequence without ENTER, or without EXIT, keeps -/

theorem stateAfter_entered {i : Instr} {s : State} (h : Entered s) (notExit : i ≠ .exit) :
    Entered (stateAfter i s) := by
  rw [Entered, stateAfter_block, blockAfter_mode]
  exact modeAfter_ne_off notExit h

theorem runAll_mode_ne_prog {is : List Instr} {s : State} (h : s.block.mode ≠ .prog)
    (noEnter : .enter ∉ is) : (runAll is s).block.mode ≠ .prog := by
  induction is generalizing s with
  | nil => exact h
  | cons i is ih =>
    obtain ⟨notEnter, noEnter⟩ := List.ne_and_not_mem_of_not_mem_cons noEnter
    refine ih ?_ noEnter
    rw [stateAfter_block, blockAfter_mode]
    exact modeAfter_ne_prog notEnter.symm h

/-- In programming mode no request before an EXIT faults. -/
theorem err_notMem_responsesTo {is : List Instr} {s : State} (h : Entered s)
    (noExit : .exit ∉ is) : .err .notEntered ∉ responsesTo is s := by
  induction is generalizing s with
  | nil => exact List.not_mem_nil
  | cons i is ih =>
    obtain ⟨notExit, noExit⟩ := List.ne_and_not_mem_of_not_mem_cons noExit
    refine List.not_mem_cons_of_ne_of_not_mem (fun faults => ?_)
      (ih (stateAfter_entered h notExit.symm) noExit)
    have trap := (responseTo_eq_err_iff i s).mp faults.symm
    rw [traps_entered i h] at trap
    exact Bool.false_ne_true trap

/-- Apart from ENTER and LOAD_CONFIG, only INCREMENT_ADDR writes ADDR, and it adds one. -/
theorem blockAfter_addr_cases {i : Instr} (b : Block) (notEnter : i ≠ .enter)
    (notLoadConfig : ∀ w, i ≠ .loadConfig w) :
    (blockAfter i b).addr = b.addr
      ∨ (i = .incrementAddr ∧ (blockAfter i b).addr = b.addr + 1#16) := by
  cases h : traps i b.mode
  case true => exact .inl (by rw [blockAfter_of_traps h])
  case false =>
    rw [blockAfter_served h]
    cases i
    case enter => contradiction
    case loadConfig w => exact absurd rfl (notLoadConfig w)
    case incrementAddr => exact .inr ⟨rfl, rfl⟩
    all_goals exact .inl rfl

/-- Settles O13: "MODE is not PROG" is kept by every request but ENTER. -/
theorem configurationRegionIsLeftOnlyByEnter :
    Obligations.ConfigurationRegionIsLeftOnlyByEnter := by
  refine ⟨fun is s config noEnter => ⟨runAll is s, performAll_eq is s, ?notProg⟩,
    fun i s t answers notEnter notLoadConfig => ?addr⟩
  case notProg => exact runAll_mode_ne_prog (by simp [config]) noEnter
  case addr =>
    rw [eq_stateAfter_of_exec answers, stateAfter_block]
    exact blockAfter_addr_cases s.block notEnter notLoadConfig

/-! ### The client's sequences in programming mode -/

/-- In programming mode no request faults, so the block is the served one. -/
theorem blockAfter_entered (i : Instr) {b : Block} (h : b.mode ≠ .off) :
    blockAfter i b = blockServed i b := blockAfter_served (traps_entered i h)

/-- Increments move ADDR alone, one each. -/
theorem runAll_increments (n : Nat) {s : State} (h : Entered s) :
    (runAll (List.replicate n .incrementAddr) s).block.mode = s.block.mode
    ∧ (runAll (List.replicate n .incrementAddr) s).block.addr = s.block.addr + BitVec.ofNat 16 n := by
  induction n generalizing s with
  | zero => simp [runAll]
  | succ n ih =>
    have block : (stateAfter .incrementAddr s).block = blockServed .incrementAddr s.block :=
      blockAfter_entered _ h
    obtain ⟨mode, addr⟩ := ih (s := stateAfter .incrementAddr s) (by rw [Entered, block]; exact h)
    rw [List.replicate_succ, runAll, mode, addr, block]
    refine ⟨rfl, ?_⟩
    rw [blockServed, BitVec.add_assoc, BitVec.add_comm (1#16), ← BitVec.ofNat_add]

/-- LOAD_CONFIG and seven increments end at the configuration word (R143). -/
theorem runAll_seekConfigWord (c : Operand) {s : State} (h : Entered s) :
    (runAll (seekConfigWord c) s).block.mode = .config
    ∧ (runAll (seekConfigWord c) s).block.addr = 0x2007#16 := by
  have block : (stateAfter (.loadConfig c) s).block = blockServed (.loadConfig c) s.block :=
    blockAfter_entered _ h
  obtain ⟨mode, addr⟩ := runAll_increments 7 (s := stateAfter (.loadConfig c) s)
    (by rw [Entered, block]; exact nofun)
  rw [seekConfigWord, runAll, mode, addr, block]
  exact ⟨rfl, rfl⟩

/-- Settles O14. -/
theorem configurationWordIsReachedBySeekMacro :
    Obligations.ConfigurationWordIsReachedBySeekMacro := by
  intro c s entered
  obtain ⟨mode, addr⟩ := runAll_seekConfigWord c entered
  exact ⟨_, performAll_eq _ s, mode, by rw [mode]; rfl, by rw [addr]; decide, by rw [addr]; rfl⟩

theorem runAll_programVerify_block (w : Operand) {s : State} (h : Entered s) :
    (runAll (programVerify w) s).block = { s.block with lineClk := false, lineData := true } := by
  simp [programVerify, runAll, blockAfter_entered, blockServed, h]

theorem runAll_programWord_block (w : Operand) {s : State} (h : Entered s) :
    (runAll (programWord w) s).block = { s.block with lineClk := false, lineData := false } := by
  simp [programWord, runAll, blockAfter_entered, blockServed, h]

theorem runAll_eraseAll_block {s : State} (h : Entered s) :
    (runAll eraseAll s).block = { s.block with lineClk := false, lineData := false } := by
  simp [eraseAll, runAll, blockAfter_entered, blockServed, h]

/-- Whatever precedes its increment, an image word keeps MODE and moves ADDR on by one (R144). -/
theorem runAll_imageWord (verify : Bool) (w : Operand) {s : State} (h : Entered s) :
    (runAll (imageWord verify w) s).block.mode = s.block.mode
    ∧ (runAll (imageWord verify w) s).block.addr = s.block.addr + 1#16 := by
  have incremented {t : State} (mode : t.block.mode = s.block.mode)
      (addr : t.block.addr = s.block.addr) :
      (runAll [.incrementAddr] t).block.mode = s.block.mode
      ∧ (runAll [.incrementAddr] t).block.addr = s.block.addr + 1#16 := by
    rw [← mode, ← addr]
    exact runAll_increments 1 (by rw [Entered, mode]; exact h)
  rw [imageWord, runAll_append]
  by_cases sentinel : w = 0xFFFF#16
  · rw [if_pos sentinel]; exact incremented rfl rfl
  · rw [if_neg sentinel]
    cases verify
    · exact incremented (by simp [runAll_programWord_block w h]) (by simp [runAll_programWord_block w h])
    · exact incremented (by simp [runAll_programVerify_block w h])
        (by simp [runAll_programVerify_block w h])

/-- Writing an image keeps MODE, by induction on the image. -/
theorem runAll_image_mode (verify : Bool) (image : List Operand) {s : State} (h : Entered s) :
    (runAll (image.flatMap (imageWord verify)) s).block.mode = s.block.mode := by
  induction image generalizing s with
  | nil => rfl
  | cons w image ih =>
    obtain ⟨mode, _⟩ := runAll_imageWord verify w h
    rw [List.flatMap_cons, runAll_append, ih (by rw [Entered, mode]; exact h), mode]

/-! ### The session -/

/-- A sequence that ends with EXIT ends in OFF with every line low and ADDR kept. -/
theorem runAll_exit_block (is : List Instr) (s : State) :
    (runAll (is ++ [.exit]) s).block = ⟨.off, (runAll is s).block.addr, false, false, false, false⟩ := by
  rw [runAll_append]; rfl

/-- The requests of a session between its ENTER and its EXIT. -/
def sessionBody (verify : Bool) (image : List Operand) (c word : Operand) : List Instr :=
  eraseAll ++ image.flatMap (imageWord verify) ++ seekConfigWord c ++ programVerify word

theorem session_eq (verify : Bool) (image : List Operand) (c word : Operand) :
    session verify image c word = .enter :: (sessionBody verify image c word ++ [.exit]) := by
  simp [session, sessionBody]

theorem exit_notMem_imageWord (verify : Bool) (w : Operand) : .exit ∉ imageWord verify w := by
  rw [imageWord]
  split
  · decide
  · cases verify <;> simp [programVerify, programWord]

theorem exit_notMem_sessionBody (verify : Bool) (image : List Operand) (c word : Operand) :
    .exit ∉ sessionBody verify image c word := by
  simp [sessionBody, eraseAll, seekConfigWord, programVerify, exit_notMem_imageWord]

theorem entered_enter (s : State) : Entered (stateAfter .enter s) := nofun

/-- Up to the last word of the image a session is in PROG. -/
theorem runAll_written_mode (verify : Bool) (image : List Operand) (s : State) :
    (runAll (eraseAll ++ image.flatMap (imageWord verify)) (stateAfter .enter s)).block.mode
      = .prog := by
  have erased : (runAll eraseAll (stateAfter .enter s)).block.mode = .prog := by
    rw [runAll_eraseAll_block (entered_enter s)]; rfl
  rw [runAll_append, runAll_image_mode verify image (by rw [Entered, erased]; exact nofun), erased]

/-- Before its EXIT a session is in CONFIG at the configuration word. -/
theorem runAll_sessionBody (verify : Bool) (image : List Operand) (c word : Operand) (s : State) :
    (runAll (sessionBody verify image c word) (stateAfter .enter s)).block.mode = .config
    ∧ (runAll (sessionBody verify image c word) (stateAfter .enter s)).block.addr = 0x2007#16 := by
  have written := runAll_written_mode verify image s
  obtain ⟨mode, addr⟩ := runAll_seekConfigWord c (by rw [Entered, written]; exact nofun)
  rw [sessionBody, runAll_append, runAll_append,
    runAll_programVerify_block word (by rw [Entered, mode]; exact nofun)]
  exact ⟨mode, addr⟩

/-- Settles O39: ENTER makes the rest run in programming mode, the seek to the configuration word fixes
ADDR whatever the image was, and EXIT lowers the lines. -/
theorem sessionsEndPoweredDown : Obligations.SessionsEndPoweredDown := by
  intro verify image c word s
  obtain ⟨_, addr⟩ := runAll_sessionBody verify image c word s
  refine ⟨_, responsesTo (session verify image c word) s, performAll_eq _ s, ?block,
    runAll_responses _ s, ?noError, length_responsesTo _ s⟩
  case block => rw [session_eq, runAll, runAll_exit_block, addr]
  case noError =>
    rw [session_eq, responsesTo, responsesTo_append]
    have body := err_notMem_responsesTo (entered_enter s)
      (exit_notMem_sessionBody verify image c word)
    simp [body, responsesTo, responseTo, responseServed]

/-- Settles O40: MODE is followed from one session state to the next; and EXIT ends
it wherever it is cut. -/
theorem sessionStatesShowInMode : Obligations.SessionStatesShowInMode := by
  intro verify image c word s
  refine ⟨fun st is off issued => ?states, fun k => ?cut⟩
  case states =>
    refine ⟨runAll is s, performAll_eq is s, ?_⟩
    cases st <;> cases issued
    case idle => rw [runAll, off]; rfl
    case entered => rfl
    case erased =>
      rw [List.singleton_append, runAll, runAll_eraseAll_block (entered_enter s)]; rfl
    case writing =>
      rw [List.append_assoc, List.singleton_append, runAll, runAll_written_mode]; rfl
    case configWritten =>
      obtain ⟨mode, _⟩ := runAll_sessionBody verify image c word s
      simp only [sessionBody, List.append_assoc] at mode
      rw [List.append_assoc, List.append_assoc, List.append_assoc,
        List.singleton_append, runAll, mode]; rfl
    case exited => rw [session, runAll_exit_block]; rfl
  case cut =>
    have block := runAll_exit_block ((session verify image c word).take k) s
    refine ⟨_, performAll_eq _ s, by rw [failedSession, block], fun l => ?_⟩
    rw [failedSession, block]
    cases l <;> rfl

end Sys2Proof.Proofs
end

section
/-! PROOFS. Steps, the status port, resets and the invariant between steps (spec/10_state.md R23, R27,
R29, R30, spec/70_reset_and_hazards.md R220, R221). -/

namespace Sys2Proof.Proofs

open Sys2Proof.Machine Sys2Proof.Manual

/-! ### One act of the client -/

/-- With an act ahead, a step serves it in the state it is taken from. -/
theorem step_of_inputs {e : HostEvent} {rest : List HostEvent} {s : State}
    (h : s.inputs = e :: rest) : step s = serve e { s with inputs := rest } := by
  rw [step, nextInput, h]

/-- Settles O42. -/
theorem idleBlockStaysAsItIs : Obligations.IdleBlockStaysAsItIs := by
  intro s h
  rw [step, nextInput, h]

/-- The state after one act of the client; what it does with a request is `stateAfter`. -/
def stateServed (e : HostEvent) (s : State) : State :=
  match e with
  | .request q       => stateAfter (decode q) s
  | .readStatus      => readStatus s
  | .requestPolled q => stateAfter (decode q) (readStatus s)
  | .reset           => resetAfter [] s
  | .requestCut q k  => resetAfter ((performed (decode q) s).take k) s

/-- Every act of the client answers the next state. -/
theorem serve_eq (e : HostEvent) (s : State) : serve e s = .next (stateServed e s) := by
  cases e
  case request q => exact exec_eq _ s
  case readStatus => rfl
  case requestPolled q => exact exec_eq _ _
  case reset => rfl
  case requestCut q k => rw [serve, perform, exec_eq, cutByReset, emitted_stateAfter, stateServed]

/-- What a step can do: nothing where no act is ahead, and else serve the first of them. -/
theorem step_cases (s : State) :
    (s.inputs = [] ∧ step s = .next s)
    ∨ ∃ e rest, s.inputs = e :: rest ∧ step s = .next (stateServed e { s with inputs := rest }) := by
  cases h : s.inputs with
  | nil => exact .inl ⟨rfl, idleBlockStaysAsItIs s h⟩
  | cons e rest => exact .inr ⟨e, rest, rfl, by rw [step_of_inputs h, serve_eq]⟩

/-- A property of states that idling keeps and every served act keeps is kept by every step. -/
theorem step_induction {P : State → Prop} {s t : State} (h : step s = .next t) (idle : P s)
    (served : ∀ e rest, P (stateServed e { s with inputs := rest })) : P t := by
  rcases step_cases s with ⟨_, stays⟩ | ⟨e, rest, _, serves⟩
  · rw [h] at stays; exact Host.Outcome.next.inj stays ▸ idle
  · rw [h] at serves; exact Host.Outcome.next.inj serves ▸ served e rest

/-- Settles O41. -/
theorem stepRunsTheDecodedRequest : Obligations.StepRunsTheDecodedRequest := by
  refine ⟨fun q rest s h => step_of_inputs h, fun nbits w i s h => ?tableWord⟩
  case tableWord =>
    obtain ⟨q, word, rfl⟩ := Option.map_eq_some_iff.mp h
    rw [State.withFetchWord, word]; rfl

/-- A response depends on MODE and the levels ahead alone. -/
theorem responseTo_congr (i : Instr) {s t : State} (mode : s.block.mode = t.block.mode)
    (answers : s.answers = t.answers) (draws : s.draws = t.draws) :
    responseTo i s = responseTo i t := by
  have served : responseServed i s = responseServed i t := by
    cases i
    case readProgram =>
      exact congrArg Response.okValue (receiveData_value_congr fun _ _ => upcomingLevel_congr answers draws _)
    all_goals rfl
  rw [responseTo, responseTo, mode, served]

/-- A request does the same whether or not the status port was read just before it. -/
theorem stateAfter_readStatus (i : Instr) (s : State) :
    stateAfter i (readStatus s)
      = { stateAfter i s with statusReads := s.statusReads ++ [s.block] } := by
  have response : responseTo i (readStatus s) = responseTo i s := responseTo_congr i rfl rfl rfl
  rw [stateAfter, response]; rfl

/-- Settles O43: reading the status port and serving a request write different fields. -/
theorem statusPortReadsWithoutSideEffect : Obligations.StatusPortReadsWithoutSideEffect := by
  refine fun rest s => ⟨fun h => step_of_inputs h, fun q h => ?polled⟩
  case polled =>
    exact ⟨_, _, (step_of_inputs h).trans (serve_eq _ _), exec_eq _ _, stateAfter_readStatus _ _⟩

/-- Settles O44. -/
theorem resetRestoresTheResetValues : Obligations.ResetRestoresTheResetValues := by
  refine ⟨rfl, rfl, rfl, rfl, fun rest s h => ?resetEvent⟩
  case resetEvent => rw [step_of_inputs h]; simp [serve, resetAfter, readCount, State.reset]

/-- Settles O45: what is cut is the very list of actions the request would have performed. -/
theorem resetCutsARequestShort : Obligations.ResetCutsARequestShort := by
  intro q k rest s h
  exact ⟨_, performed (decode q) { s with inputs := rest }, exec_eq _ _, rfl,
    (step_of_inputs h).trans (serve_eq _ _)⟩

@[simp] theorem stateServed_inputs (e : HostEvent) (s : State) :
    (stateServed e s).inputs = s.inputs := by
  cases e <;> rfl

@[simp] theorem stateServed_params (e : HostEvent) (s : State) :
    (stateServed e s).params = s.params := by
  cases e <;> rfl

/-- Settles O46. -/
theorem everyStepGoesOn : Obligations.EveryStepGoesOn := by
  intro s
  rcases step_cases s with ⟨none, stays⟩ | ⟨e, rest, acts, serves⟩
  · exact ⟨s, stays, by rw [none]; rfl, rfl⟩
  · exact ⟨_, serves, by rw [acts, stateServed_inputs]; rfl, stateServed_params _ _⟩

/-! ### Readings and answers -/

/-- `n` readings more, each of which has drawn the next answer. -/
def DrewAnswers (s t : State) (n : Nat) : Prop :=
  readings t = readings s + n ∧ t.draws = s.draws + n ∧ t.answers = s.answers.drop n

theorem stateAfter_drewAnswers (i : Instr) (s : State) :
    DrewAnswers s (stateAfter i s) (readCount (performed i s)) := by
  refine ⟨?_, rfl, rfl⟩
  rw [readings, stateAfter_trace, stateAfter_pastTraces, readCount_append, readings]
  omega

/-- A reset keeps the readings of the trace it ends, those of the cut request included. -/
theorem resetAfter_drewAnswers (done : List Action) (s : State) :
    DrewAnswers s (resetAfter done s) (readCount done) := by
  refine ⟨?_, rfl, rfl⟩
  simp only [readings, resetAfter, List.map_append, List.map_cons, List.map_nil, List.sum_append,
    List.sum_cons, List.sum_nil, readCount_append, readCount]
  omega

theorem stateServed_drewAnswers (e : HostEvent) (s : State) :
    ∃ n, DrewAnswers s (stateServed e s) n := by
  cases e
  case request q => exact ⟨_, stateAfter_drewAnswers _ s⟩
  case readStatus => exact ⟨0, rfl, rfl, rfl⟩
  case requestPolled q => exact ⟨_, stateAfter_drewAnswers _ (readStatus s)⟩
  case reset => exact ⟨_, resetAfter_drewAnswers _ s⟩
  case requestCut q k => exact ⟨_, resetAfter_drewAnswers _ s⟩

/-- Settles O47. -/
theorem everyReadingDrawsOneAnswer : Obligations.EveryReadingDrawsOneAnswer := fun s _ h =>
  step_induction (P := fun t => ∃ n, DrewAnswers s t n) h ⟨0, rfl, rfl, rfl⟩
    fun e rest => stateServed_drewAnswers e { s with inputs := rest }

/-! ### The invariant -/

/-- A line that no action of a request drives keeps its level, and the others end at the level last
driven: the block follows the actions. -/
theorem blockServed_line (cfg : Configuration) (i : Instr) {b : Block} (clkLow : b.lineClk = false)
    (l : Line) :
    (blockServed i b).line l = levelAfter l (b.line l) (requestActions cfg.p i) := by
  cases i
  case enter =>
    cases order : cfg.p.raiseOrder <;> cases l <;>
      simp [blockServed, requestActions, entryActions, order, levelAfter, Block.line]
  case exit => cases l <;> rfl
  case readProgram =>
    cases l <;>
      simp [blockServed, requestActions, readActions_eq, levelAfter_append, levelAfter, Block.line,
        clkLow, level_receiving, powerLevel_sending]
  all_goals
    cases l <;>
      simp [blockServed, requestActions, loadActions, levelAfter_append, levelAfter, Block.line, clkLow,
        powerLevel_sending]

theorem stateAfter_line (i : Instr) {s : State} (clkLow : ClockLow s) (l : Line) :
    (stateAfter i s).block.line l = levelAfter l (s.block.line l) (performed i s) := by
  rw [stateAfter_block]
  cases h : traps i s.block.mode
  case true => rw [blockAfter_of_traps h, performed_of_traps h]; rfl
  case false => rw [blockAfter_served h, performed_served h, blockServed_line s.params i clkLow]

theorem blockServed_clkLow (i : Instr) (b : Block) : (blockServed i b).lineClk = false := by
  cases i <;> rfl

theorem stateAfter_clkLow (i : Instr) {s : State} (h : ClockLow s) : ClockLow (stateAfter i s) := by
  rw [ClockLow, stateAfter_block]
  cases trap : traps i s.block.mode
  case true => rw [blockAfter_of_traps trap]; exact h
  case false => rw [blockAfter_served trap]; exact blockServed_clkLow i s.block

/-- Only ENTER and EXIT write the power lines, and both as the mode they lead to says. -/
theorem stateAfter_powerAgrees (i : Instr) {s : State} (h : PowerAgrees s) :
    PowerAgrees (stateAfter i s) := by
  rw [PowerAgrees, stateAfter_block]
  cases trap : traps i s.block.mode
  case true => rw [blockAfter_of_traps trap]; exact h
  case false =>
    rw [blockAfter_served trap]
    rw [PowerAgrees] at h
    cases i
    case enter => simp [blockServed]
    case exit => simp [blockServed]
    all_goals
      have entered : s.block.mode ≠ .off := fun off => by
        rw [off] at trap; exact Bool.false_ne_true trap.symm
      rw [if_neg entered] at h
      simpa [blockServed, entered] using h

theorem stateAfter_inv (i : Instr) {s : State} (h : s.Inv) : (stateAfter i s).Inv where
  clockLow := stateAfter_clkLow i h.clockLow
  powerAgrees := stateAfter_powerAgrees i h.powerAgrees
  linesFollowTrace l := by
    rw [stateAfter_line i h.clockLow, h.linesFollowTrace l, stateAfter_trace, levelAfter_append]

/-- A state in which the block has its reset values and the trace is empty meets the invariant. -/
theorem inv_of_reset {s : State} (block : s.block = Block.reset) (trace : s.trace = []) : s.Inv where
  clockLow := by rw [ClockLow, block]; rfl
  powerAgrees := by rw [PowerAgrees, block]; exact ⟨rfl, rfl, rfl⟩
  linesFollowTrace l := by rw [block, trace]; cases l <;> rfl

theorem resetAfter_inv (done : List Action) (s : State) : (resetAfter done s).Inv :=
  inv_of_reset rfl rfl

/-- Settles O49. -/
theorem resetMeetsTheInvariant : Obligations.ResetMeetsTheInvariant := inv_of_reset rfl rfl

/-- The invariant speaks of the block and the trace alone. -/
theorem inv_congr {s t : State} (block : t.block = s.block) (trace : t.trace = s.trace)
    (h : s.Inv) : t.Inv where
  clockLow := by rw [ClockLow, block]; exact h.clockLow
  powerAgrees := by rw [PowerAgrees, block]; exact h.powerAgrees
  linesFollowTrace l := by rw [block, trace]; exact h.linesFollowTrace l

theorem stateServed_inv (e : HostEvent) {s : State} (h : s.Inv) : (stateServed e s).Inv := by
  cases e
  case request q => exact stateAfter_inv _ h
  case readStatus => exact inv_congr (s := s) rfl rfl h
  case requestPolled q => exact stateAfter_inv _ (inv_congr (s := s) rfl rfl h)
  case reset => exact resetAfter_inv _ s
  case requestCut q k => exact resetAfter_inv _ s

/-- Settles O48: idling changes nothing, a request keeps each of the three clauses, and a reset
establishes them. -/
theorem stepKeepsTheInvariant : Obligations.StepKeepsTheInvariant := fun s _ inv h =>
  step_induction (P := State.Inv) h inv fun e rest =>
    stateServed_inv e (s := { s with inputs := rest }) (inv_congr (s := s) rfl rfl inv)

end Sys2Proof.Proofs
end

section
/-! PROOFS. What an onlooker at the transport sees of a request (spec/30_encoding.md R70, R71, R75, R80,
spec/40_serializer.md R105, R106). -/

namespace Sys2Proof.Proofs

open Sys2Proof.Machine Sys2Proof.Manual

/-! ### The actions of a request depend on little -/

/-- The actions depend on the configuration and on whether MODE is OFF. -/
theorem performed_congr (i : Instr) {s t : State} (params : s.params = t.params)
    (off : s.block.mode = .off ↔ t.block.mode = .off) : performed i s = performed i t := by
  have trap : traps i s.block.mode = traps i t.block.mode := by
    rw [Bool.eq_iff_iff, traps_eq_true_iff, traps_eq_true_iff, off]
  rw [performed, performed, params, trap]

/-- Settles O24. -/
theorem actionsDependOnlyOnEntryAndConfiguration :
    Obligations.ActionsDependOnlyOnEntryAndConfiguration := by
  intro i s t params off
  refine ⟨_, _, exec_eq i s, exec_eq i t, ?_⟩
  rw [emitted_stateAfter, emitted_stateAfter, performed_congr i params off]

theorem performed_entered (i : Instr) {s : State} (h : Entered s) :
    performed i s = requestActions s.params.p i := performed_served (traps_entered i h)

/-! ### The bits clocked out -/

/-- What follows the command of a request on the wire: the frame of a load, and for a read the level 1 at
which the block holds `DATA` released. -/
def fieldBits : Instr → List Level
  | .enter         => []
  | .loadProgram w => frameBits w
  | .incrementAddr => []
  | .beginProgram  => []
  | .bulkErase     => []
  | .loadConfig w  => frameBits w
  | .readProgram   => List.replicate 16 true
  | .exit          => []

/-- The wire transaction of a request, bit by bit (R70). -/
def wireBits (p : Params) (i : Instr) : List Level :=
  match wireCommand i with
  | some c => transmitted p c ++ fieldBits i
  | none   => []

theorem wireBits_of_wireCommand (p : Params) {i : Instr} {c : WireCommand}
    (h : wireCommand i = some c) : wireBits p i = transmitted p c ++ fieldBits i := by
  rw [wireBits, h]

theorem clockedBits_requestActions (p : Params) (i : Instr) (d : Level) :
    clockedBits false d (requestActions p i) = wireBits p i := by
  cases i
  case enter =>
    cases order : p.raiseOrder <;>
      simp [requestActions, entryActions, order, clockedBits, wireBits, wireCommand]
  case readProgram =>
    simp [requestActions, readActions_eq, clockedBits_append, clockedBits, wireBits, wireCommand,
      fieldBits]
  all_goals
    simp [requestActions, loadActions, clockedBits_append, clockedBits, wireBits, wireCommand, fieldBits]

theorem length_fieldBits {i : Instr} {c : WireCommand} (h : wireCommand i = some c) :
    6 + (fieldBits i).length = c.format.cells := by
  cases i <;> cases h <;> simp [fieldBits, WireCommand.format, WireFormat.cells]

theorem length_wireBits (p : Params) {i : Instr} {c : WireCommand} (h : wireCommand i = some c) :
    (wireBits p i).length = c.format.cells := by
  rw [wireBits_of_wireCommand p h, List.length_append, length_transmitted, length_fieldBits h]

/-- The `k`-th bit of a sent frame, by the layout of R55. -/
theorem frameBits_getElem? (w : Operand) {k : Nat} (hk : k < 16) :
    (frameBits w)[k]? = some (if k = 0 ∨ k = 15 then false else w.getLsbD (k - 1)) := by
  rw [← bitsLsbFirst_frameOf, bitsLsbFirst_getElem? _ hk, frameOf_getLsbD]
  by_cases padding : k = 0 ∨ k = 15
  · have outside : ¬ (1 ≤ k ∧ k < 15) := by omega
    rw [if_pos padding, decide_eq_false outside, Bool.false_and]
  · have inside : 1 ≤ k ∧ k < 15 := by omega
    rw [if_neg padding, decide_eq_true inside, Bool.true_and]

theorem wireBits_getElem? (cfg : Configuration) {i : Instr} {c : WireCommand}
    (h : wireCommand i = some c) {k : Nat} (hk : k < c.format.cells) :
    (wireBits cfg.p i)[k]? = some (wireBit cfg.p i c k) := by
  rw [wireBits_of_wireCommand _ h]
  unfold wireBit
  by_cases command : k < 6
  · rw [if_pos command, List.getElem?_append_left (by rwa [length_transmitted]), ← bitsLsbFirst_code,
      bitsLsbFirst_getElem? _ command]
  · have field : k - 6 < (fieldBits i).length := by have := length_fieldBits h; omega
    rw [if_neg command, List.getElem?_append_right (by rw [length_transmitted]; omega),
      length_transmitted]
    have shift : k - 6 - 1 = k - 7 := by omega
    have ends : (k - 6 = 0 ∨ k - 6 = 15) ↔ (k = 6 ∨ k = 21) := by omega
    cases i
    case loadProgram w =>
      rw [fieldBits, length_frameBits] at field
      simp only [fieldBits, frameBits_getElem? w field, shift, ends]
    case loadConfig w =>
      rw [fieldBits, length_frameBits] at field
      simp only [fieldBits, frameBits_getElem? w field, shift, ends]
    case readProgram =>
      rw [fieldBits, List.length_replicate] at field
      rw [fieldBits, List.getElem?_replicate, if_pos field]
    all_goals exact absurd field (Nat.not_lt_zero _)

/-- Settles O20. -/
theorem wireTransactionsFollowTheirFormat : Obligations.WireTransactionsFollowTheirFormat := by
  intro i c s command entered clkLow
  refine ⟨_, exec_eq i s, ?_⟩
  rw [emitted_stateAfter, performed_entered i entered, clkLow, clockedBits_requestActions]
  exact ⟨length_wireBits _ command, fun k hk => wireBits_getElem? s.params command hk⟩

/-- R80's list of codes. -/
theorem code_listed (cfg : Configuration) (c : WireCommand) :
    c.code cfg.p = 0x00#6 ∨ c.code cfg.p = 0x02#6 ∨ c.code cfg.p = 0x04#6 ∨ c.code cfg.p = 0x06#6
      ∨ c.code cfg.p = 0x09#6
      ∨ (c.code cfg.p = cfg.p.beginProgramCmd ∧ (c.code cfg.p = 0x08#6 ∨ c.code cfg.p = 0x18#6)) := by
  cases c
  case beginProgram => simp [WireCommand.code, beginProgramCmd_cases cfg]
  all_goals simp [WireCommand.code]

/-- Settles O21: a request that clocks anything out begins with its command. -/
theorem onlyListedCommandCodesAreEmitted : Obligations.OnlyListedCommandCodesAreEmitted := by
  intro i s t clkLow answers
  rw [eq_stateAfter_of_exec answers, emitted_stateAfter]
  cases trap : traps i s.block.mode
  case true => exact .inl (by rw [performed_of_traps trap, clockedBits])
  case false =>
    rw [performed_served trap, clkLow, clockedBits_requestActions]
    cases command : wireCommand i with
    | none => exact .inl (by rw [wireBits, command])
    | some c =>
      refine .inr ⟨c.code s.params.p, ?_, code_listed s.params c⟩
      rw [wireBits_of_wireCommand _ command, List.take_left' (length_transmitted _ c),
        bitsLsbFirst_code]

/-! ### Clock pulses and settings of `DATA` -/

/-- One rising and one falling edge a bit cell, with the clock low at the end. -/
theorem pulses_requestActions (p : Params) (i : Instr) :
    risingEdges false (requestActions p i) = wireCells i
    ∧ fallingEdges false (requestActions p i) = wireCells i
    ∧ levelAfter .clk false (requestActions p i) = false := by
  cases i
  case enter =>
    cases order : p.raiseOrder <;>
      simp [requestActions, entryActions, order, risingEdges, fallingEdges, levelAfter, wireCells,
        wireCommand]
  case readProgram =>
    simp [requestActions, readActions_eq, risingEdges_append, fallingEdges_append, levelAfter_append,
      risingEdges, fallingEdges, levelAfter, wireCells, wireCommand, WireCommand.format,
      WireFormat.cells]
  all_goals
    simp [requestActions, loadActions, risingEdges_append, fallingEdges_append, levelAfter_append,
      risingEdges, fallingEdges, levelAfter, wireCells, wireCommand, WireCommand.format,
      WireFormat.cells]

/-- Settles O22. -/
theorem oneClockPulsePerBitCell : Obligations.OneClockPulsePerBitCell := by
  intro i s entered clkLow
  refine ⟨_, exec_eq i s, ?_⟩
  rw [emitted_stateAfter, performed_entered i entered, clkLow]
  exact pulses_requestActions _ i

/-- Bits sent are driven while the clock is high. -/
@[simp] theorem lowDrives_of_sent (bits : List Level) :
    (bits.map fun b => (true, b)).filter (fun d : Level × Level => d.1 = false) = [] := by
  simp [List.filter_eq_nil_iff]

/-- Of the requests that send a command only the read sets `DATA` with the clock low: to release it. -/
theorem lowDrives_requestActions (p : Params) {i : Instr} {c : WireCommand}
    (h : wireCommand i = some c) :
    (dataDrives false (requestActions p i)).filter (fun d => d.1 = false)
      = if i = .readProgram then [(false, true)] else [] := by
  cases i
  case enter => cases h
  case exit => cases h
  case readProgram =>
    simp [requestActions, readActions_eq, dataDrives_append, dataDrives]
  all_goals
    simp [requestActions, loadActions, dataDrives_append, dataDrives]

/-- Settles O23. -/
theorem dataIsDrivenWhileTheClockIsHigh : Obligations.DataIsDrivenWhileTheClockIsHigh := by
  intro i c s command entered clkLow
  refine ⟨_, exec_eq i s, ?_⟩
  rw [emitted_stateAfter, performed_entered i entered, clkLow, lowDrives_requestActions _ command]

/-! ### Repetition, and the client's sequences on the wire -/

theorem length_requestActions (p : Params) (i : Instr) :
    (requestActions p i).length = actionCount i := by
  cases i
  case enter => cases order : p.raiseOrder <;> simp [requestActions, entryActions, order, actionCount]
  case readProgram => simp [requestActions, readActions_eq, actionCount]
  all_goals simp [requestActions, loadActions, actionCount]

theorem requestActions_ne_nil (p : Params) (i : Instr) : requestActions p i ≠ [] := by
  refine List.ne_nil_of_length_pos ?_
  rw [length_requestActions]
  cases i <;> simp [actionCount]

/-- Settles O36: the second time the block is in programming mode as it was the first time. -/
theorem repeatedRequestsAreSentAgain : Obligations.RepeatedRequestsAreSentAgain := by
  intro i c s command entered
  have notExit : i ≠ .exit := by rintro rfl; cases command
  have again : performed i (stateAfter i s) = performed i s := by
    rw [performed_entered i (stateAfter_entered entered notExit), performed_entered i entered,
      stateAfter_params]
  refine ⟨_, _, exec_eq i s, exec_eq i _, ?nonempty, ?trace⟩
  case nonempty =>
    rw [emitted_stateAfter, performed_entered i entered]
    exact requestActions_ne_nil _ i
  case trace => rw [stateAfter_trace, stateAfter_trace, emitted_stateAfter, again]

/-- The actions of a sequence in programming mode are those of its requests, one after the other. -/
theorem performedBy_entered {is : List Instr} {s : State} (h : Entered s) (noExit : .exit ∉ is) :
    performedBy is s = is.flatMap (requestActions s.params.p) := by
  induction is generalizing s with
  | nil => rfl
  | cons i is ih =>
    obtain ⟨notExit, noExit⟩ := List.ne_and_not_mem_of_not_mem_cons noExit
    rw [performedBy, performed_entered i h, ih (stateAfter_entered h notExit.symm) noExit,
      stateAfter_params, List.flatMap_cons]

/-- Settles O37: the trace is cut at the closing delay of BEGIN_PROGRAM. -/
theorem verifyReadsAfterTheProgramPulse : Obligations.VerifyReadsAfterTheProgramPulse := by
  intro w s entered
  refine ⟨_, loadActions s.params.p .loadProgram w
      ++ sending s.params.p (transmitted s.params.p .beginProgram),
    readActions s.params.p, performAll_eq _ s, ?split, ?noReading, ?sixteen, ?clocked⟩
  case split =>
    rw [emitted_runAll, performedBy_entered entered (by simp [programVerify])]
    simp [programVerify, requestActions]
  case noReading => simp [loadActions, readCount_append, readCount]
  case sixteen => exact readCount_requestActions s.params.p .readProgram
  case clocked =>
    simp [loadActions, clockedBits_append, clockedBits]

/-- Settles O38. -/
theorem everyImageWordAdvancesTheCursorByOne :
    Obligations.EveryImageWordAdvancesTheCursorByOne := by
  intro verify w s entered clkLow
  obtain ⟨mode, addr⟩ := runAll_imageWord verify w entered
  refine ⟨_, performAll_eq _ s, addr, mode, fun sentinel => ?_⟩
  rw [emitted_runAll, performedBy_entered entered (exit_notMem_imageWord verify w), imageWord,
    if_pos sentinel, List.nil_append, List.flatMap_singleton, clkLow, clockedBits_requestActions,
    wireBits_of_wireCommand _ (c := .incrementAddr) rfl, fieldBits, List.append_nil]

/-! ### Reading back -/

theorem responseTo_readProgram {s : State} (h : Entered s) :
    responseTo .readProgram s = .okValue (receiveData s).1 :=
  responseTo_served (traps_entered .readProgram h)

/-- Settles O25: the value received takes no padding level. -/
theorem paddingLevelsNeverAffectARead : Obligations.PaddingLevelsNeverAffectARead := by
  intro s t sEntered tEntered agree
  have same : (receiveData s).1 = (receiveData t).1 :=
    receiveData_value_congr fun k hk => agree (k + 1) (by omega) (by omega)
  refine ⟨_, _, (receiveData s).1, exec_eq _ s, exec_eq _ t, ?_, ?_⟩
  · rw [stateAfter_responses, responseTo_readProgram sEntered]
  · rw [stateAfter_responses, responseTo_readProgram tEntered, same]

/-- The bits of a value between two padding levels. -/
def paddedLevels (v : Payload) (first last : Level) : List Level :=
  first :: bitsLsbFirst v ++ [last]

theorem length_paddedLevels (v : Payload) (first last : Level) :
    (paddedLevels v first last).length = 16 := by
  simp [paddedLevels]

theorem receiveData_of_paddedLevels {s : State} {v : Payload} {first last : Level}
    (h : s.answers = paddedLevels v first last) : (receiveData s).1 = v := by
  refine BitVec.eq_of_getLsbD_eq fun k hk => ?_
  have level : upcomingLevel s (k + 1) = v.getLsbD k := by
    rw [upcomingLevel, h, paddedLevels, List.cons_append, List.getElem?_cons_succ,
      List.getElem?_append_left (by rwa [bitsLsbFirst_length]), bitsLsbFirst_getElem? _ hk]
  rw [receiveData_value, level, decide_eq_true hk, Bool.true_and]

/-- READ_PROGRAM uses sixteen answers up. -/
theorem answers_readProgram {s : State} (h : Entered s) :
    (stateAfter .readProgram s).answers = s.answers.drop 16 := by
  rw [stateAfter_answers, performed_entered _ h, readCount_requestActions, if_pos rfl]

/-- Settles O26: the sixteen answers are the padding levels with the bits of the value between them. -/
theorem everyReadValueIsPossible : Obligations.EveryReadValueIsPossible := by
  intro s v first last entered
  have enteredToo : Entered { s with answers := paddedLevels v first last } := entered
  refine ⟨paddedLevels v first last, _, length_paddedLevels v first last, rfl,
    List.getLast?_concat, exec_eq _ _, ?value, ?used⟩
  case value =>
    rw [stateAfter_responses, responseTo_readProgram enteredToo, receiveData_of_paddedLevels rfl]
  case used =>
    rw [answers_readProgram enteredToo]
    exact List.drop_eq_nil_of_le (length_paddedLevels v first last).le

end Sys2Proof.Proofs
end

section
/-! PROOFS. The configuration, action counts and time (spec/00_scope.md R8, spec/20_memory.md R62,
spec/40_serializer.md R105, spec/70_reset_and_hazards.md R224, R231). -/

namespace Sys2Proof.Proofs

open Sys2Proof.Machine Sys2Proof.Manual

/-! ### Well-formed configurations -/

theorem wellFormed_iff (p : Params) :
    p.wellFormed = true ↔
      (p.beginProgramCmd = 0x08#6 ∨ p.beginProgramCmd = 0x18#6)
      ∧ p.entryVariant.minSettleUs ≤ p.tSettleUs ∧ p.progCycleKind.minProgUs ≤ p.tProgUs
      ∧ minEraseUs ≤ p.tEraseUs := by
  simp [Params.wellFormed, and_assoc]

theorem minSettleUs_le_iff (p : Params) :
    p.entryVariant.minSettleUs ≤ p.tSettleUs ↔
      (p.entryVariant = .lowVoltage → 100000 ≤ p.tSettleUs)
      ∧ (p.entryVariant = .highVoltage → 1000000 ≤ p.tSettleUs) := by
  cases variant : p.entryVariant <;> simp [EntryVariant.minSettleUs]

theorem minProgUs_le_iff (p : Params) :
    p.progCycleKind.minProgUs ≤ p.tProgUs ↔
      (p.progCycleKind = .oneShot → 2500 ≤ p.tProgUs)
      ∧ (p.progCycleKind = .programVerify → 6000 ≤ p.tProgUs) := by
  cases kind : p.progCycleKind <;> simp [ProgCycleKind.minProgUs]

/-- Building gives the record itself or nothing, as it is well-formed or not. -/
theorem map_build (p : Params) :
    (Configuration.build p).map Configuration.p = if p.wellFormed = true then some p else none := by
  rw [Configuration.build]
  split <;> rfl

/-- Settles O28. -/
theorem illFormedConfigurationsAreRefused : Obligations.IllFormedConfigurationsAreRefused := by
  intro p
  by_cases wf : p.wellFormed = true
  · have built : (Configuration.build p).map Configuration.p = some p := by rw [map_build, if_pos wf]
    obtain ⟨code, settle, prog, erase⟩ := (wellFormed_iff p).mp wf
    obtain ⟨low, high⟩ := (minSettleUs_le_iff p).mp settle
    obtain ⟨oneShot, cycle⟩ := (minProgUs_le_iff p).mp prog
    exact ⟨iff_of_true built ⟨code, low, high, oneShot, cycle, erase⟩, .inl built⟩
  · have refused : (Configuration.build p).map Configuration.p = none := by
      rw [map_build, if_neg wf]
    refine ⟨iff_of_false (by rw [refused]; exact nofun) fun ⟨code, low, high, oneShot, cycle, erase⟩ =>
      wf ?_, .inr (Option.map_eq_none_iff.mp refused)⟩
    exact (wellFormed_iff p).mpr ⟨code, (minSettleUs_le_iff p).mpr ⟨low, high⟩,
      (minProgUs_le_iff p).mpr ⟨oneShot, cycle⟩, erase⟩

/-- Settles O29. -/
theorem enterSettlesWithEveryLineLow : Obligations.EnterSettlesWithEveryLineLow := by
  intro s
  obtain ⟨_, settle, _, _⟩ := (wellFormed_iff s.params.p).mp s.params.wf
  obtain ⟨low, high⟩ := (minSettleUs_le_iff s.params.p).mp settle
  have actions : emitted s (stateAfter .enter s) = entryActions s.params.p := by
    rw [emitted_stateAfter]; rfl
  refine ⟨_, exec_eq .enter s, fun l v => ?lowered, ?settles, low, high⟩
  case lowered => rw [actions]; cases l <;> rfl
  case settles => rw [actions]; rfl

/-- Settles O30. -/
theorem programAndErasePulsesMeetTheirMinimums :
    Obligations.ProgramAndErasePulsesMeetTheirMinimums := by
  intro s entered
  obtain ⟨_, _, prog, erase⟩ := (wellFormed_iff s.params.p).mp s.params.wf
  obtain ⟨oneShot, cycle⟩ := (minProgUs_le_iff s.params.p).mp prog
  refine ⟨⟨_, s.params.p.tProgUs, exec_eq .beginProgram s, ?program, oneShot, cycle⟩,
    ⟨_, s.params.p.tEraseUs, exec_eq .bulkErase s, ?erase, erase⟩⟩
  case program =>
    rw [emitted_stateAfter, performed_entered _ entered]; exact List.getLast?_concat
  case erase =>
    rw [emitted_stateAfter, performed_entered _ entered]; exact List.getLast?_concat

/-! ### Delays -/

/-- The delays of bit cells are configured ones. -/
theorem cell_delay_configured {p : Params} {n : Nat} (h : n = p.tSetUs ∨ n = p.tHoldUs) :
    n ∈ configuredDelays p := by
  rcases h with rfl | rfl <;> simp [configuredDelays]

theorem sent_delay_configured {p : Params} {bits : List Level} {n : Nat}
    (h : .delay n ∈ sending p bits) : n ∈ configuredDelays p :=
  cell_delay_configured (delay_mem_sending p bits h)

theorem received_delay_configured {p : Params} {k n : Nat} (h : .delay n ∈ receiving p k) :
    n ∈ configuredDelays p :=
  cell_delay_configured (delay_mem_receiving p k h)

theorem entry_delay {p : Params} {n : Nat} (h : .delay n ∈ entryActions p) :
    n = p.tSettleUs ∨ n = p.tRaise1Us ∨ n = p.tRaise2Us := by
  cases order : p.raiseOrder <;> simpa [entryActions, order] using h

/-- A load's delays are those of its bit cells, the gap and the closing delay. -/
theorem load_delay_configured {p : Params} {c : WireCommand} {w : Operand} {n : Nat}
    (h : .delay n ∈ loadActions p c w) : n ∈ configuredDelays p := by
  simp only [loadActions, List.mem_append, List.mem_singleton, Action.delay.injEq] at h
  rcases h with ((command | rfl) | frame) | rfl
  · exact sent_delay_configured command
  · simp [configuredDelays]
  · exact sent_delay_configured frame
  · simp [configuredDelays]

theorem delay_mem_requestActions {p : Params} {i : Instr} {n : Nat}
    (h : .delay n ∈ requestActions p i) : n ∈ configuredDelays p := by
  have closed {bits : List Level} {us : Nat} (configured : us ∈ configuredDelays p)
      (mem : .delay n ∈ sending p bits ++ [.delay us]) : n ∈ configuredDelays p := by
    rcases List.mem_append.mp mem with command | closing
    · exact sent_delay_configured command
    · rw [List.mem_singleton, Action.delay.injEq] at closing
      exact closing ▸ configured
  cases i
  case enter =>
    rcases entry_delay h with rfl | rfl | rfl <;> simp [configuredDelays]
  case loadProgram w => exact load_delay_configured h
  case incrementAddr => exact closed (by simp [configuredDelays]) h
  case beginProgram => exact closed (by simp [configuredDelays]) h
  case bulkErase => exact closed (by simp [configuredDelays]) h
  case loadConfig w => exact load_delay_configured h
  case readProgram =>
    rw [requestActions, readActions_eq] at h
    simp only [List.mem_append, List.mem_cons, List.not_mem_nil, or_false, reduceCtorEq, false_or,
      Action.delay.injEq] at h
    rcases h with ((command | rfl) | cells) | rfl
    · exact sent_delay_configured command
    · simp [configuredDelays]
    · exact received_delay_configured cells
    · simp [configuredDelays]
  case exit => simp [requestActions] at h

/-- Settles O31. -/
theorem everyDelayEmittedIsConfigured : Obligations.EveryDelayEmittedIsConfigured := by
  intro i s t n answers mem
  rw [eq_stateAfter_of_exec answers, emitted_stateAfter] at mem
  cases trap : traps i s.block.mode
  case true => rw [performed_of_traps trap] at mem; cases mem
  case false => rw [performed_served trap] at mem; exact delay_mem_requestActions mem

theorem delaySum_loadActions (p : Params) (c : WireCommand) (w : Operand) :
    delaySum (loadActions p c w) = 6 * tBit p + p.tCmdDataUs + 16 * tBit p + p.tPostUs := by
  simp [loadActions, delaySum_append, Action.minUs, Nat.add_assoc]

theorem delaySum_readActions (p : Params) :
    delaySum (readActions p) = 6 * tBit p + p.tCmdDataUs + 16 * tBit p + p.tPostUs := by
  simp [readActions_eq, delaySum_append, Action.minUs, Nat.add_assoc]

/-- R231's sums. -/
theorem delaySum_requestActions (p : Params) (i : Instr) :
    delaySum (requestActions p i) = delayTotal p i := by
  cases i
  case enter =>
    cases order : p.raiseOrder <;>
      simp [requestActions, entryActions, order, Action.minUs, delayTotal, Nat.add_assoc]
  case loadProgram w => rw [requestActions, delaySum_loadActions, delayTotal]; omega
  case loadConfig w => rw [requestActions, delaySum_loadActions, delayTotal]; omega
  case readProgram => rw [requestActions, delaySum_readActions, delayTotal]; omega
  case exit => simp [requestActions, Action.minUs, delayTotal]
  all_goals simp [requestActions, delaySum_append, Action.minUs, delayTotal]

/-- Settles O32. -/
theorem actionCountsAndDelaySums : Obligations.ActionCountsAndDelaySums := by
  intro i s
  refine ⟨_, exec_eq i s, ?_⟩
  rw [emitted_stateAfter]
  cases trap : traps i s.block.mode
  case true => rw [performed_of_traps trap]; exact ⟨rfl, rfl⟩
  case false =>
    rw [performed_served trap]
    exact ⟨length_requestActions _ i, delaySum_requestActions _ i⟩

/-- A timed trace that honours its delays lasts at least their sum, by induction on the trace. -/
theorem delaySum_le_of_honoursDelays {stop start : Nat} {timed : List (Action × Nat)}
    (h : honoursDelays stop start timed) : start + delaySum (timed.map Prod.fst) ≤ stop := by
  induction timed generalizing start with
  | nil => exact h
  | cons step rest ih =>
    obtain ⟨a, time⟩ := step
    obtain ⟨begins, later⟩ := h
    have remaining := ih later
    simp only [List.map_cons, delaySum_cons]
    omega

/-- Settles O34. -/
theorem aRequestLastsAtLeastItsDelays : Obligations.ARequestLastsAtLeastItsDelays := by
  intro i s t timed start stop served answers actions honoured
  rw [← delaySum_requestActions, ← performed_served served, ← emitted_stateAfter,
    ← eq_stateAfter_of_exec answers, ← actions]
  exact delaySum_le_of_honoursDelays honoured

/-! ### The frame procedures -/

theorem emitted_bitOut (b : Level) (s : State) : emitted s (bitOut b s) = cellOut s.params.p b :=
  emitted_of_trace_eq (by rw [bitOut_eq])

theorem emitted_bitIn (s : State) : emitted s (bitIn s).2 = cellIn s.params.p :=
  emitted_of_trace_eq (by rw [bitIn_eq])

theorem emitted_receiveData (s : State) : emitted s (receiveData s).2
    = [.set .data true, .delay s.params.p.tCmdDataUs] ++ receiving s.params.p 16 :=
  emitted_of_trace_eq (by rw [receiveData_state, receiving])

/-- Settles O33. -/
theorem frameProcedureCounts : Obligations.FrameProcedureCounts := by
  intro s
  refine ⟨fun b => ?bitOut, ?bitIn, ?receiveData, fun c => ?sendCommand, fun w => ?sendData⟩
  case bitOut =>
    rw [emitted_bitOut]
    simp [cellOut, setCount, readCount, delayCount, Action.minUs, tBit]
  case bitIn =>
    rw [emitted_bitIn]
    simp [cellIn, setCount, readCount, delayCount, Action.minUs, tBit]
  case receiveData =>
    rw [emitted_receiveData]
    simp [setCount, readCount, delayCount, Action.minUs, Nat.add_comm]
  case sendCommand =>
    have counts := counts_cells s.params.p (bitsLsbFirst c)
    rw [bitsLsbFirst_length] at counts
    rw [emitted_sendCommand]
    exact counts
  case sendData =>
    have counts := counts_cells s.params.p (bitsLsbFirst (frameOf w))
    rw [bitsLsbFirst_length] at counts
    rw [emitted_sendData]
    exact counts

end Sys2Proof.Proofs
end

section
/-! PROOFS. Request words: decoding and encoding (spec/30_encoding.md R76 to R78, R81). -/

namespace Sys2Proof.Proofs

open Sys2Proof.Machine Sys2Proof.Manual

/-! ### The two fields of a word -/

/-- A word is its two fields side by side (R76). -/
theorem opField_append_operandField (q : RequestWord) : opField q ++ operandField q = q := by
  refine BitVec.eq_of_getLsbD_eq fun k hk => ?_
  rw [BitVec.getLsbD_append, opField, operandField, BitVec.getLsbD_extractLsb',
    BitVec.getLsbD_extractLsb']
  by_cases low : k < 16
  · simp [low]
  · have inOp : k - 16 < 3 := by omega
    have back : 16 + (k - 16) = k := by omega
    simp [low, inOp, back]

@[simp] theorem opField_append (op : BitVec 3) (w : Operand) : opField (op ++ w) = op :=
  BitVec.extractLsb'_append_eq_left

@[simp] theorem operandField_append (op : BitVec 3) (w : Operand) : operandField (op ++ w) = w :=
  BitVec.extractLsb'_append_eq_right

theorem setWidth_operand (w : Operand) : (w.setWidth 19 : RequestWord) = 0#3 ++ w := by
  refine BitVec.eq_of_getLsbD_eq fun k hk => ?_
  rw [BitVec.getLsbD_append, BitVec.getLsbD_setWidth]
  by_cases low : k < 16
  · simp [low, hk]
  · have beyond : w.getLsbD k = false := BitVec.getLsbD_of_ge _ _ (by omega)
    simp [low, beyond]

theorem shifted_opcode (op : BitVec 3) :
    (op.setWidth 19 <<< 16 : RequestWord) = op ++ 0#16 := by
  revert op; decide

/-- An encoded word is the op code beside the operand bits (R81). -/
theorem encode_eq_append (i : Instr) : encode i = opcode i ++ operandBits i := by
  rw [encode, shifted_opcode, setWidth_operand, BitVec.or_append, BitVec.or_zero, BitVec.zero_or]

/-- Masking a word's operand bits away leaves its op code. -/
theorem masked_word (q : RequestWord) : q &&& 0x70000#19 = opField q ++ 0#16 := by
  have mask : 0x70000#19 = BitVec.allOnes 3 ++ 0#16 := by decide
  conv_lhs => rw [mask, ← opField_append_operandField q]
  rw [BitVec.and_append, BitVec.and_allOnes, BitVec.and_zero]

/-- The operand bits of a word replaced. -/
theorem masked_word_or (q : RequestWord) (w : Operand) :
    (q &&& 0x70000#19) ||| w.setWidth 19 = opField q ++ w := by
  rw [masked_word, setWidth_operand, BitVec.or_append, BitVec.or_zero, BitVec.zero_or]

/-! ### Decoding in terms of the fields -/

/-- Encoding loses nothing (R77, R81). -/
theorem decode_encode (i : Instr) : decode (encode i) = i := by
  rw [encode_eq_append, decode, opField_append, operandField_append]
  cases i <;> rfl

/-- A request is its op code and its operand bits. -/
theorem eq_of_opcode_of_operandBits {i j : Instr} (op : opcode i = opcode j)
    (operand : operandBits i = operandBits j) : i = j := by
  rw [← decode_encode i, encode, op, operand, ← encode, decode_encode]

/-- What `decode` answers has the op code of its word, and the operand where the request takes one. -/
theorem decode_fields (q : RequestWord) :
    opcode (decode q) = opField q
    ∧ operandBits (decode q)
        = if opField q = 1#3 ∨ opField q = 5#3 then operandField q else 0#16 := by
  have ops (op : BitVec 3) : op = 0#3 ∨ op = 1#3 ∨ op = 2#3 ∨ op = 3#3 ∨ op = 4#3 ∨ op = 5#3
      ∨ op = 6#3 ∨ op = 7#3 := by revert op; decide
  rcases ops (opField q) with h | h | h | h | h | h | h | h <;> rw [decode, h] <;> exact ⟨rfl, rfl⟩

/-- Decoding loses the operand bits of a request that takes none, and nothing else (R78). -/
theorem encode_decode (q : RequestWord) :
    encode (decode q) = if opField q = 1#3 ∨ opField q = 5#3 then q else q &&& 0x70000#19 := by
  obtain ⟨op, operand⟩ := decode_fields q
  rw [encode_eq_append, op, operand, masked_word]
  split
  · exact opField_append_operandField q
  · rfl

/-- Settles O50. -/
theorem decodeAndEncodeAgree : Obligations.DecodeAndEncodeAgree :=
  ⟨decode_encode, encode_decode⟩

/-- Settles O51. -/
theorem ignoredOperandBitsChangeNothing : Obligations.IgnoredOperandBitsChangeNothing := by
  intro q w notLoadProgram notLoadConfig
  have takesNone : ¬ (opField q = 1#3 ∨ opField q = 5#3) := not_or.mpr ⟨notLoadProgram, notLoadConfig⟩
  obtain ⟨op, operand⟩ := decode_fields q
  obtain ⟨op', operand'⟩ := decode_fields (opField q ++ w)
  rw [opField_append] at op' operand'
  rw [if_neg takesNone] at operand operand'
  rw [masked_word_or]
  exact eq_of_opcode_of_operandBits (op'.trans op.symm) (operand'.trans operand.symm)

/-- Settles O52. -/
theorem writtenWordsDecodeAsTheTableSays : Obligations.WrittenWordsDecodeAsTheTableSays := by
  unfold Obligations.WrittenWordsDecodeAsTheTableSays
  decide

/-- Settles O53. -/
theorem exactlyTheRequestWordsDecode : Obligations.ExactlyTheRequestWordsDecode := by
  refine fun n => ⟨fun below => ?_, fun above => ?_⟩
  · rw [decodeNumber, requestWord, if_pos below]
  · rw [decodeNumber, requestWord, if_neg (Nat.not_lt.mpr above)]

end Sys2Proof.Proofs
end

section
/-! PROOFS. Assembly text (spec/30_encoding.md R81, R82). -/

namespace Sys2Proof.Proofs

open Sys2Proof.Machine Sys2Proof.Manual

/-! ### Lines to request words -/

section Lines
variable {name : AsmName} {n : Nat}

theorem assemble_missingOperand (h : name.takesOperand = true) :
    assemble ⟨name, none⟩ = .error .missingOperand := by
  simp only [assemble, AsmLine.check, h]

theorem assemble_unexpectedOperand (h : name.takesOperand = false) :
    assemble ⟨name, some n⟩ = .error .unexpectedOperand := by
  simp only [assemble, AsmLine.check, h]

theorem assemble_operandTooLarge (h : name.takesOperand = true) (large : 0xFFFF < n) :
    assemble ⟨name, some n⟩ = .error .operandTooLarge := by
  simp only [assemble, AsmLine.check, h, if_neg (Nat.not_le.mpr large)]

theorem assemble_none (h : name.takesOperand = false) :
    assemble ⟨name, none⟩ = .ok ((expand name 0#16).map encode) := by
  simp only [assemble, AsmLine.check, h, Option.getD_none]

theorem assemble_some (h : name.takesOperand = true) (fits : n ≤ 0xFFFF) :
    assemble ⟨name, some n⟩ = .ok ((expand name (BitVec.ofNat 16 n)).map encode) := by
  simp only [assemble, AsmLine.check, h, if_pos fits, Option.getD_some]

end Lines

theorem expand_ne_nil (name : AsmName) (w : Operand) : (expand name w).map encode ≠ [] := by
  cases name <;> exact nofun

/-- Settles O55. -/
theorem assemblerRefusesIllFormedLines : Obligations.AssemblerRefusesIllFormedLines := by
  refine fun name n => ⟨fun takes => ⟨assemble_missingOperand takes,
    fun large => assemble_operandTooLarge takes large,
    fun fits => ⟨_, assemble_some takes fits, expand_ne_nil _ _⟩⟩, fun takesNone =>
    ⟨assemble_unexpectedOperand takesNone, _, assemble_none takesNone, expand_ne_nil _ _⟩⟩

/-- An op code beside an operand is the word `op * 2^16 + n`. -/
theorem append_eq_operandWord {op n : Nat} (hop : op < 8) (hn : n ≤ 0xFFFF) :
    BitVec.ofNat 3 op ++ BitVec.ofNat 16 n = operandWord op n := by
  apply BitVec.eq_of_toNat_eq
  have low : n < 2 ^ 16 := by omega
  rw [BitVec.toNat_append, operandWord, BitVec.toNat_ofNat, BitVec.toNat_ofNat, BitVec.toNat_ofNat,
    Nat.mod_eq_of_lt hop, Nat.mod_eq_of_lt low, ← Nat.shiftLeft_add_eq_or_of_lt low,
    Nat.shiftLeft_eq, Nat.mod_eq_of_lt (by omega)]

theorem encode_loadProgram {n : Nat} (hn : n ≤ 0xFFFF) :
    encode (.loadProgram (BitVec.ofNat 16 n)) = operandWord 1 n := by
  rw [encode_eq_append]; exact append_eq_operandWord (by decide) hn

theorem encode_loadConfig {n : Nat} (hn : n ≤ 0xFFFF) :
    encode (.loadConfig (BitVec.ofNat 16 n)) = operandWord 5 n := by
  rw [encode_eq_append]; exact append_eq_operandWord (by decide) hn

/-- Settles O56. -/
theorem macrosExpandToPlainRequests : Obligations.MacrosExpandToPlainRequests := by
  have begins : encode .beginProgram = 0x30000#19 := by decide
  have reads : encode .readProgram = 0x60000#19 := by decide
  have increments : encode .incrementAddr = 0x20000#19 := by decide
  refine ⟨by decide, fun n fits => ⟨?_, ?_, ?_⟩⟩ <;> rw [assemble_some rfl fits]
  · simp [expand, programWord, encode_loadProgram fits, begins]
  · simp [expand, programVerify, encode_loadProgram fits, begins, reads]
  · simp [expand, seekConfigWord, encode_loadConfig fits, increments]

/-! ### Text to words of text -/

/-- Characters that end no word and start no comment. -/
def Plain (w : List Char) : Prop := ∀ c ∈ w, c ≠ ' ' ∧ c ≠ '\t' ∧ c ≠ ';'

theorem Plain.noSemicolon {w : List Char} (h : Plain w) : ∀ c ∈ w, c ≠ ';' := fun c hc =>
  have ⟨_, _, semicolon⟩ := h c hc
  semicolon

theorem words_cons {c : Char} (h : ¬ (c = ' ' ∨ c = '\t')) (cs word : List Char) :
    words (c :: cs) word = words cs (c :: word) := by
  rw [words.eq_def]
  exact if_neg h

theorem words_plain_append {w : List Char} (h : Plain w) (rest acc : List Char) :
    words (w ++ rest) acc = words rest (w.reverse ++ acc) := by
  induction w generalizing acc with
  | nil => rfl
  | cons c w ih =>
    obtain ⟨⟨space, tab, _⟩, plain⟩ := List.forall_mem_cons.mp h
    rw [List.cons_append, words_cons (not_or.mpr ⟨space, tab⟩), ih plain, List.reverse_cons,
      List.append_assoc, List.singleton_append]

/-- At the end of the text the word being read is the last. -/
theorem words_nil {w : List Char} (h : w ≠ []) : words [] w.reverse = [w] := by
  cases r : w.reverse with
  | nil => exact absurd (List.reverse_eq_nil_iff.mp r) h
  | cons c cs => rw [words, ← r, List.reverse_reverse]

/-- At a blank the word being read ends. -/
theorem words_blank {w : List Char} (h : w ≠ []) (rest : List Char) :
    words (' ' :: rest) w.reverse = w :: words rest [] := by
  cases r : w.reverse with
  | nil => exact absurd (List.reverse_eq_nil_iff.mp r) h
  | cons c cs => rw [words, if_pos (.inl rfl), ← r, List.reverse_reverse]

theorem words_single {w : List Char} (plain : Plain w) (h : w ≠ []) : words w [] = [w] := by
  have read := words_plain_append plain [] []
  rw [List.append_nil, List.append_nil] at read
  rw [read, words_nil h]

theorem words_pair {w v : List Char} (plain : Plain w) (h : w ≠ []) (plain' : Plain v)
    (h' : v ≠ []) : words (w ++ ' ' :: v) [] = [w, v] := by
  rw [words_plain_append plain, List.append_nil, words_blank h, words_single plain' h']

/-! ### Comments -/

theorem withoutComment_of_forall {text : List Char} (h : ∀ c ∈ text, c ≠ ';') :
    withoutComment text = text :=
  List.takeWhile_eq_self_iff.mpr fun c hc => by simpa using h c hc

/-- A comment ends at the first `;`, wherever that stands. -/
theorem withoutComment_append (text comment : List Char) :
    withoutComment (text ++ ';' :: comment) = withoutComment text := by
  induction text with
  | nil => rfl
  | cons c text ih =>
    unfold withoutComment at ih ⊢
    rw [List.cons_append, List.takeWhile_cons, List.takeWhile_cons, ih]

theorem assembleText_append_comment (text comment : List Char) :
    assembleText (text ++ ';' :: comment) = assembleText text := by
  rw [assembleText, assembleText, withoutComment_append]

/-! ### Names -/

theorem asmName_spelling (name : AsmName) : asmName (spelling name) = some name := by
  cases name <;> decide

theorem spelling_plain (name : AsmName) : Plain (spelling name) := by
  unfold Plain
  cases name <;> simp [spelling]

theorem spelling_ne_nil (name : AsmName) : spelling name ≠ [] := by
  cases name <;> exact nofun

theorem assembleText_spelling (name : AsmName) :
    assembleText (spelling name) = assemble ⟨name, none⟩ := by
  have plain := spelling_plain name
  have noComment : withoutComment (spelling name) = spelling name :=
    withoutComment_of_forall plain.noSemicolon
  rw [assembleText, noComment, words_single plain (spelling_ne_nil name), asmLine,
    asmName_spelling]

/-- A name, a blank and a numeral are a line with that operand. -/
theorem assembleText_operand (name : AsmName) {word : List Char} {n : Nat} (plain : Plain word)
    (value : number word = some n) :
    assembleText (spelling name ++ ' ' :: word) = assemble ⟨name, some n⟩ := by
  have nonempty : word ≠ [] := by rintro rfl; cases value
  have noComment : withoutComment (spelling name ++ ' ' :: word) = spelling name ++ ' ' :: word := by
    refine withoutComment_of_forall fun c hc => ?_
    rcases List.mem_append.mp hc with inName | inRest
    · exact (spelling_plain name).noSemicolon c inName
    · rcases List.mem_cons.mp inRest with rfl | inWord
      · decide
      · exact plain.noSemicolon c inWord
  rw [assembleText, noComment, words_pair (spelling_plain name) (spelling_ne_nil name) plain nonempty,
    asmLine, asmName_spelling, value]

/-! ### Numerals -/

theorem digitValue_hexDigit {d : Nat} (h : d < 16) : digitValue (hexDigit d) = some d := by
  revert d; decide

theorem hexDigit_plain {d : Nat} (h : d < 16) :
    hexDigit d ≠ ' ' ∧ hexDigit d ≠ '\t' ∧ hexDigit d ≠ ';' := by
  revert d; decide

theorem hexDigit_ne_x {d : Nat} (h : d < 16) : hexDigit d ≠ 'x' := by
  revert d; decide

theorem baseOf_le (hex : Bool) : baseOf hex ≤ 16 := by cases hex <;> decide

/-- The digits of a numeral are written alike in both bases. -/
theorem numeralText_eq {hex : Bool} {ds : List Nat} (h : ∀ d ∈ ds, d < baseOf hex) :
    numeralText hex ds = if hex then '0' :: 'x' :: ds.map hexDigit else ds.map hexDigit := by
  cases hex
  case true => rfl
  case false =>
    refine List.map_congr_left fun d hd => ?_
    have decimal : d < 10 := h d hd
    rw [hexDigit, if_pos decimal]

theorem digitsValue_map_hexDigit {base : Nat} (hbase : base ≤ 16) (acc : Nat) {ds : List Nat}
    (h : ∀ d ∈ ds, d < base) :
    digitsValue base acc (ds.map hexDigit) = some (ds.foldl (fun n d => base * n + d) acc) := by
  induction ds generalizing acc with
  | nil => rfl
  | cons d ds ih =>
    obtain ⟨hd, hds⟩ := List.forall_mem_cons.mp h
    rw [List.map_cons, digitsValue, digitValue_hexDigit (hd.trans_le hbase)]
    simp only [if_pos hd]
    rw [ih _ hds, List.foldl_cons, Nat.mul_comm acc]

/-- A word is read as decimal unless it begins with `0x`. -/
theorem number_decimal {c : Char} {cs : List Char} (h : cs.head? ≠ some 'x') :
    number (c :: cs) = digitsValue 10 0 (c :: cs) := by
  unfold number
  split
  · next shape => cases shape; exact absurd rfl h
  · next shape => cases shape; rfl
  · next shape => cases shape

theorem number_numeralText {hex : Bool} {ds : List Nat} (nonempty : ds ≠ [])
    (h : ∀ d ∈ ds, d < baseOf hex) : number (numeralText hex ds) = some (numeralValue hex ds) := by
  have digits := digitsValue_map_hexDigit (baseOf_le hex) 0 h
  rw [numeralText_eq h]
  obtain ⟨d, ds, rfl⟩ := List.exists_cons_of_ne_nil nonempty
  cases hex
  case true => exact digits
  case false =>
    obtain ⟨_, hds⟩ := List.forall_mem_cons.mp h
    refine (number_decimal ?_).trans digits
    cases ds with
    | nil => exact nofun
    | cons e es =>
      have decimal : e < 10 := hds e List.mem_cons_self
      simpa using hexDigit_ne_x (by omega)

theorem numeralText_plain {hex : Bool} {ds : List Nat} (h : ∀ d ∈ ds, d < baseOf hex) :
    Plain (numeralText hex ds) := by
  have digits : Plain (ds.map hexDigit) := by
    intro c hc
    obtain ⟨d, hd, rfl⟩ := List.mem_map.mp hc
    exact hexDigit_plain ((h d hd).trans_le (baseOf_le hex))
  rw [numeralText_eq h]
  cases hex
  case false => exact digits
  case true =>
    exact List.forall_mem_cons.mpr ⟨by decide, List.forall_mem_cons.mpr ⟨by decide, digits⟩⟩

/-- A line with a numeral is the line with its value. -/
theorem assembleText_numeral (name : AsmName) {hex : Bool} {ds : List Nat} (nonempty : ds ≠ [])
    (h : ∀ d ∈ ds, d < baseOf hex) :
    assembleText (spelling name ++ ' ' :: numeralText hex ds)
      = assemble ⟨name, some (numeralValue hex ds)⟩ :=
  assembleText_operand name (numeralText_plain h) (number_numeralText nonempty h)

/-! ### The line of a request -/

/-- The four hexadecimal digits of an operand. -/
def hexDigitsOf (w : Operand) : List Nat :=
  [w.toNat / 4096 % 16, w.toNat / 256 % 16, w.toNat / 16 % 16, w.toNat % 16]

theorem hexDigitsOf_lt (w : Operand) : ∀ d ∈ hexDigitsOf w, d < baseOf true := by
  have below (n : Nat) : n % 16 < baseOf true := Nat.mod_lt n (by decide)
  simp [hexDigitsOf, below]

theorem numeralValue_hexDigitsOf (w : Operand) : numeralValue true (hexDigitsOf w) = w.toNat := by
  have := w.isLt
  simp only [numeralValue, hexDigitsOf, baseOf, if_true, List.foldl_cons, List.foldl_nil]
  omega

theorem assembleText_hexOperand (name : AsmName) (w : Operand) :
    assembleText (spelling name ++ [' '] ++ hexOperand w) = assemble ⟨name, some w.toNat⟩ := by
  have line := assembleText_numeral name (ds := hexDigitsOf w) nofun (hexDigitsOf_lt w)
  rw [numeralValue_hexDigitsOf] at line
  rw [List.append_assoc, List.singleton_append]
  exact line

/-- The line of a request without an operand, and of one with each operand. -/
theorem assembleText_lineOf (i : Instr) : assembleText (lineOf i) = .ok [encode i] := by
  have load {name : AsmName} {request : Operand → Instr} (takes : name.takesOperand = true)
      (one : ∀ v, expand name v = [request v]) (w : Operand) :
      assembleText (spelling name ++ [' '] ++ hexOperand w) = .ok [encode (request w)] := by
    have fits : w.toNat ≤ 0xFFFF := by have := w.isLt; omega
    rw [assembleText_hexOperand, assemble_some takes fits, BitVec.ofNat_toNat, BitVec.setWidth_eq,
      one]; rfl
  cases i
  case loadProgram w => exact load (name := .loadProgram) rfl (fun _ => rfl) w
  case loadConfig w => exact load (name := .loadConfig) rfl (fun _ => rfl) w
  all_goals rw [lineOf, assembleText_spelling, assemble_none rfl]; rfl

/-- Settles O54. -/
theorem everyRequestAssemblesToItsWord : Obligations.EveryRequestAssemblesToItsWord := by
  refine ⟨assembleText_lineOf, fun hex ds nonempty digits => ⟨fun fits => ?operand, fun large => ?large⟩,
    assembleText_append_comment⟩
  case operand =>
    rw [assembleText_numeral _ nonempty digits, assembleText_numeral _ nonempty digits,
      assemble_some rfl fits, assemble_some rfl fits, ← encode_loadProgram fits,
      ← encode_loadConfig fits]
    exact ⟨rfl, rfl⟩
  case large =>
    rw [assembleText_numeral _ nonempty digits, assembleText_numeral _ nonempty digits]
    exact ⟨assemble_operandTooLarge rfl large, assemble_operandTooLarge rfl large⟩

end Sys2Proof.Proofs
end
